-- ==== Sys2Proof/Word.lean ====
section
/-! DEFINITION. The word type of the Ebtil instruction set and the machine's plain widths (R2, R12). -/

namespace Sys2Proof

/-- A 64-bit register or address. -/
abbrev Word := BitVec 64

/-- One byte of memory. -/
abbrev Byte := BitVec 8

/-- A vector register, and one data-queue entry: 512 bytes (R34, R163). -/
abbrev VReg := BitVec 4096

/-- One row of the A ring: 72 bytes (R135). -/
abbrev RingRow := BitVec 576

/-- One accumulator row: 256 columns of f32 (R89). -/
abbrev AccRow := BitVec 8192

/-- One B buffer: 256 rows of 72 bytes (R136). -/
abbrev BBuf := BitVec 147456

/-- One moment value (R177). -/
abbrev Moment := BitVec 128

/-- The image of one address-generator table, 64 bytes (R137). -/
abbrev AgImage := BitVec 512

/-- `Sext(x, n)` of R8 on a natural number whose low `n` bits are read, `n ≥ 1`. -/
def sextNat (n x : Nat) : Int :=
  if x % 2 ^ n < 2 ^ (n - 1) then (x % 2 ^ n : Nat) else (x % 2 ^ n : Nat) - (2 ^ n : Nat)

/-- `Ceil(a / b)` of R8 for natural numbers. -/
def ceilDiv (a b : Nat) : Nat := (a + b - 1) / b

end Sys2Proof
end

