-- ==== Sys2Proof/Syntax.lean ====
section
/-! DEFINITION. The one type of instructions and events: a constructor for every row of the opcode table, with the operand types
they carry. The rows that are instructions carry their encoded fields (R297 to R311); the rows that are events carry what the
event is about (which sequencer, which command, which packet). -/

namespace Sys2Proof

/-- The four sequencers of a cell (R22), in SEQ order. -/
inductive Role where
  | K | L | C | S
  deriving DecidableEq, Repr, Inhabited

/-- A condition code of R300 (codes 6 and 7 are reserved and have no constructor). -/
inductive Cond where
  | eq | ne | lt | ge | ltn | gen
  deriving DecidableEq, Repr, Inhabited

/-- The width and extension of an `LD` (R306, codes 0 to 6). -/
inductive LdSize where
  | n8 | n16 | n32 | b64 | i8 | i16 | i32
  deriving DecidableEq, Repr, Inhabited

/-- The operation codes 0 to 11 of the atomic and multicast majors (R306, R327). -/
inductive AtOp where
  | swap | add | and | or | xor | min | max | minn | maxn | fadd | fmin | fmax
  deriving DecidableEq, Repr, Inhabited

/-- The functions of `VSF` (R130, R310). -/
inductive SfFn where
  | exp2 | log2 | rcp | sqrt | rsqrt | sin | cos | tanh | sigm
  deriving DecidableEq, Repr, Inhabited

/-- The operations of `VRED` (R423). -/
inductive RedOp where
  | add | min | max | and | or | xor
  deriving DecidableEq, Repr, Inhabited

/-- `MODE` of `DRAIN` (R355; code 3 is reserved and has no constructor). -/
inductive DrainMode where
  | plain | mom | norm
  deriving DecidableEq, Repr, Inhabited

/-- A special register of R301. -/
inductive Spr where
  | seq | cell | cluster | rank | ctx | ticket
  | arg (i : Fin 6) | fbase (i : Fin 8)
  | fpctl | fpflg | vl | accp
  | step | stepst | cycle | wintmo
  | cause | epc | eval | eprog | tvec | esave
  deriving DecidableEq, Repr, Inhabited

/-- The g-register number of a field. -/
abbrev Reg := Fin 32

/-- The engine word of a long form without its `OPX` field (R298). -/
structure EngWord where
  take : BitVec 3
  give : BitVec 3
  guard : BitVec 8
  st : Fin 16
  deriving DecidableEq, Repr, Inhabited

/-- The operand fields common to the V format (R297, R442): they are judged at issue. -/
structure VFields where
  vd : Fin 32
  a : Fin 32
  b : Fin 32
  ty : Fin 16
  deriving DecidableEq, Repr, Inhabited

/-! ### What crosses the fabric -/

/-- A bit of an inbound-window definition or rule as the seals carry it (R219 to R221). -/
structure WinDef where
  rank : Nat
  id : Nat
  base : Nat
  size : Nat
  lo : Nat
  hi : Nat
  quota : Nat
  rule : Nat
  /-- first step whose writes it governs -/
  fromStep : BitVec 32
  deriving DecidableEq, Repr, Inhabited

/-- What one caravan record writes: bytes at virtual addresses, or one reduction (R215). -/
inductive RecBody where
  | store (bytes : List (Nat × Byte))
  | reduce (addr : Nat) (bytes : Nat) (op : AtOp) (val : BitVec 64)
  deriving DecidableEq, Repr, Inhabited

/-- One caravan record (R215). -/
structure CaravanRec where
  step : BitVec 32
  agent : Nat
  stream : Nat
  /-- place in the sender's issue order -/
  order : Nat
  body : RecBody
  /-- the sender's leaf had APER 3: the write is for host memory behind the receiver (R94) -/
  host : Bool
  deriving DecidableEq, Repr, Inhabited

/-- The answer of a peer to a read (R155). -/
inductive PeerAns where
  | data (bytes : List Byte)
  | fault (code detail : BitVec 8)
  deriving DecidableEq, Repr, Inhabited

/-- What a destination reports after applying a step (R233, R234). -/
structure DestResult where
  failedBytes : Nat
  cause : BitVec 8
  conflicts : Nat
  deriving DecidableEq, Repr, Inhabited

/-- The body of a fabric packet. -/
inductive Body where
  | post (id : Nat) (wait : Bool) (record : List Byte)
  | postAnswer (id : Nat) (v : Word)
  | readReq (id : Nat) (va : Nat) (len : Nat) (step : BitVec 32) (host : Bool)
  | readResp (id : Nat) (ans : PeerAns)
  | record (r : CaravanRec)
  | sealUp (step : BitVec 32) (defs : List WinDef)
  | release (step : BitVec 32) (defs : List WinDef)
  | report (step : BitVec 32) (res : DestResult)
  | barArrive (id : Nat) (addr : Nat) (count : Nat) (trap : Bool)
  | barReply (id : Nat) (addr : Nat) (result : Word) (phase : Nat)
  | barPhase (addr : Nat) (phase : Nat) (ah : Bool)
  | absence (rank : Nat) (away : Bool)
  | collData (tag : Nat) (n : Nat) (total : Nat) (off : Nat) (bytes : List Byte)
  | collCredit (tag : Nat) (n : Nat) (len : Nat)
  | collAck (tag : Nat) (n : Nat)
  | collAbort (tag : Nat)
  deriving DecidableEq, Repr, Inhabited

/-- The three traffic classes (R239). -/
inductive PktClass where
  | request | response | caravan
  deriving DecidableEq, Repr, Inhabited

/-- A packet of the fabric (R239, R240); `job` is the identifier that peer requests carry (R286). -/
structure Packet where
  cls : PktClass
  src : Nat
  dst : Nat
  job : Nat
  hops : Nat
  agent : Nat
  seqNo : Nat
  body : Body
  deriving DecidableEq, Repr, Inhabited

/-! ### What the host and the management controller send -/

/-- A firmware core (R287). -/
inductive FwCore where
  | sirocco
  | cairn (n : Fin 16)
  deriving DecidableEq, Repr, Inhabited

/-- Where a parity or firmware-memory error strikes (R276). -/
inductive ParitySite where
  | cell (c : Fin 256)
  | erg (stamp : Nat)
  | engineQueue (cmd : Nat)
  | fwSingle (core : FwCore)
  | fwDouble (core : FwCore)
  deriving DecidableEq, Repr, Inhabited

/-- One context's vault partition in a configuration record (R291, R86). -/
structure CfgCtx where
  ctx : Fin 64
  vbase : Word
  vlimit : Nat
  vslot : Nat
  spillpri : Nat
  rename : Nat
  scratch : Nat
  wdef : BitVec 32
  deriving DecidableEq, Repr, Inhabited

/-- A configuration record (R291): its raw bytes, whose signature is checked, and what they say. -/
structure CfgRecord where
  raw : List Byte
  svn : BitVec 32
  cap : Nat
  ctxs : List CfgCtx
  bounded : List (Fin 64)
  deriving DecidableEq, Repr, Inhabited

/-- An instruction or an event of the Amizu D9: one constructor per row of the opcode table. -/
inductive Instr where
  -- ALU group, major 0x01 (R304)
  | add (d a b : Reg) | sub (d a b : Reg) | mul (d a b : Reg)
  | mulh (d a b : Reg) (n : Bool) | div (d a b : Reg) (n : Bool) | rem (d a b : Reg) (n : Bool)
  | and (d a b : Reg) | or (d a b : Reg) | xor (d a b : Reg)
  | shl (d a b : Reg) | shr (d a b : Reg) | sra (d a b : Reg)
  | min (d a b : Reg) (n : Bool) | max (d a b : Reg) (n : Bool)
  | clz (d a : Reg) | popc (d a : Reg)
  | sel (d a b c : Reg) | cmp (d a b : Reg) (cc : Cond)
  -- I format, majors 0x02 to 0x0D (R305)
  | addi (d a : Reg) (imm : BitVec 16) | andi (d a : Reg) (imm : BitVec 16)
  | ori (d a : Reg) (imm : BitVec 16) | xori (d a : Reg) (imm : BitVec 16)
  | shli (d a : Reg) (sh : Fin 64) | shri (d a : Reg) (sh : Fin 64) | srai (d a : Reg) (sh : Fin 64)
  | cmpi (d a : Reg) (cc : Cond) (imm : BitVec 13)
  | movi (d : Reg) (imm : BitVec 16) | movh (d : Reg) (imm : BitVec 16) (k : Fin 4)
  -- `lm` is the field `len - 1`
  | ext (d a : Reg) (s : Bool) (pos lm : Fin 64)
  | ins (d a : Reg) (pos lm : Fin 64)
  -- Memory, majors 0x10 to 0x15 (R306)
  | ld (d a : Reg) (st : Fin 16) (size : LdSize) (off : BitVec 9)
  | st (d a : Reg) (st : Fin 16) (size : Fin 4) (off : BitVec 9)
  | amo (d a b : Reg) (st : Fin 16) (size : Fin 4) (op : AtOp)
  | ldAtom (d a : Reg) (st : Fin 16) (size : Fin 4)
  | acas (d a b : Reg) (st : Fin 16) (size : Fin 4)
  | ared (a b : Reg) (st : Fin 16) (size : Fin 4) (op : AtOp)
  | mcst (g a b : Reg) (st : Fin 16) (size : Fin 4) (op : AtOp)
  -- Branches, majors 0x18 to 0x21 (R307)
  | b (off : BitVec 26) | jal (off : BitVec 26) | jr (d a : Reg)
  | loop (a : Reg) (len : BitVec 16)
  | beq (a b : Reg) (off : BitVec 16) | bne (a b : Reg) (off : BitVec 16)
  | blt (a b : Reg) (off : BitVec 16) | bge (a b : Reg) (off : BitVec 16)
  | bltn (a b : Reg) (off : BitVec 16) | bgen (a b : Reg) (off : BitVec 16)
  -- SYS group, major 0x22 (R308)
  | nop | endSeq | trap (a : Reg) | eret | bkpt | pause
  | fence (mask : BitVec 16)
  | rds (d : Reg) (spr : Spr) | wrs (spr : Spr) (d : Reg)
  | take (mask : BitVec 3) | give (mask : BitVec 3)
  -- Flag, barrier, task and step groups, majors 0x23 to 0x26 (R309)
  | fwait (d a b : Reg) (cc : Cond) (t : Bool)
  | fset (a b : Reg) | fadd (d a b : Reg) | fget (d a : Reg) | gset (a b : Reg)
  | binit (d a b : Reg) | barv (d a b : Reg) (t : Bool) | bwait (d a b : Reg) (t : Bool)
  | tpost (d a : Reg) (w : Bool) | tpostx (a b c : Reg) (w : Bool)
  | tstat (d a : Reg) | frdef (d a b : Reg) | frfree (d a : Reg)
  | larm (d a : Reg) | lpatch (d a b : Reg)
  | sseal (d : Reg) | sstat (d a b : Reg) | swait (d a : Reg) (t : Bool)
  | crule (d a b : Reg) | iwdef (d a b : Reg)
  -- Vector majors 0x28 to 0x2D (R310)
  | vadd (f : VFields) (sat : Bool) | vsub (f : VFields) (sat : Bool) | vmul (f : VFields) (sat : Bool)
  | vfma (f : VFields) | vmin (f : VFields) | vmax (f : VFields) | vabs (f : VFields) | vneg (f : VFields)
  | vand (f : VFields) | vor (f : VFields) | vxor (f : VFields) | vshl (f : VFields) | vshr (f : VFields)
  | vsel (f : VFields) | vmov (f : VFields)
  | vcmp (f : VFields) (cc : Cond)
  | vcvt (f : VFields) (tyD : Fin 16) (sat : Bool) | vwid (f : VFields) (tyD : Fin 16) (sat : Bool)
  | vnar (f : VFields) (tyD : Fin 16) (sat : Bool)
  | vsf (f : VFields) (fn : SfFn)
  | vred (f : VFields) (op : RedOp)
  | vbc (f : VFields) | viota (f : VFields) | vperm (f : VFields) | vsetl (f : VFields) | vpart (f : VFields)
  -- MOM group, major 0x2E (R181)
  | mclr (f : VFields) | mupd (f : VFields) | mupdw (f : VFields) | mmrg (f : VFields) | mget (f : VFields)
  | mnorm (f : VFields) | mld (f : VFields) | mst (f : VFields)
  -- Short tile group, major 0x2F (R311)
  | azero (a b : Reg) | fmtq (a : Reg)
  | agld (n : Fin 8) (a : Reg) (imm : BitVec 10) | agst (n : Fin 8) (a : Reg) (imm : BitVec 10)
  | carm (d a b : Reg)
  -- Long forms, majors 0x30 to 0x3C (R298)
  | lda (n : Fin 8) (e : EngWord) | ldb (n : Fin 8) (b : Fin 2) (e : EngWord)
  | mma (a b : Reg) (buf : Fin 2) (z k : Bool) (e : EngWord)
  | drain (a b : Reg) (agD agM : Fin 8) (ge : Reg) (mode : DrainMode) (ty : Fin 16) (sat : Bool) (lh : Fin 8) (e : EngWord)
  | nmv (d : Reg) (e : EngWord)
  | cpy (agD agS : Fin 8) (e : EngWord) | xpose (agD agS : Fin 8) (r : Reg) (e : EngWord)
  | coll (d : Reg) (e : EngWord)
  | ldv (q : Fin 2) (n : Fin 8) (e : EngWord) | stv (q : Fin 2) (n : Fin 8) (e : EngWord)
  | vgath (q : Fin 2) (n : Fin 8) (b : Reg) (ty : Fin 16) (e : EngWord)
  | vscat (q : Fin 2) (n : Fin 8) (b : Reg) (ty : Fin 16) (e : EngWord)
  | chain (d : Reg) (e : EngWord)
  -- Waiting and waking
  | sequencerWake (c : Fin 256) (q : Role) | waitTimeout (c : Fin 256) (q : Role)
  | bwaitTimeout (c : Fin 256) (q : Role) | pauseEnd (c : Fin 256) (q : Role)
  -- Engines; the operand is the command's number
  | engineQueueHead (cmd : Nat) | aRingRowDelivery (cmd : Nat)
  | ldaComplete (cmd : Nat) | ldbComplete (cmd : Nat) | mmaComplete (cmd : Nat) | drainComplete (cmd : Nat)
  | ldvComplete (cmd : Nat) | stvComplete (cmd : Nat) | vgathComplete (cmd : Nat) | vscatComplete (cmd : Nat)
  | chainComplete (cmd : Nat) | cpyComplete (cmd : Nat) | xposeComplete (cmd : Nat) | nmvComplete (cmd : Nat)
  | engineCommandFault (cmd : Nat)
  -- The Erg and the post sequencer
  | postSequencerTake | postRetry (post : Nat) | tpostWaitExpiry (post : Nat)
  | ergRelease | readyClassRaise (stamp : Nat) | taskRetire (stamp : Nat) | abortedCellFree (stamp : Nat)
  | remotePostArrival (p : Packet) | tpostxAnswer (id : Nat) (v : Word) | tpostxNoAnswer (id : Nat)
  -- Translation and peer reads
  | pageWalkComplete (walk : Nat)
  | peerReadRequest (p : Packet) | peerReadResponse (id : Nat) (ans : PeerAns) | remoteReadTimeout (id : Nat)
  -- The Caravan and the fabric
  | caravanRecordArrival (p : Packet) | sealSend (ctx : Fin 64) | sealArrival (p : Packet)
  | boundaryRelease (p : Packet) | boundaryApply (ctx : Fin 64)
  | boundaryResultReport (p : Packet) | boundaryRecordTimeout (ctx : Fin 64) (step : BitVec 32)
  | inboundStallTimeout (c : Fin 256) (q : Role)
  | packetForward (p : Packet) | packetResend (seqNo : Nat) | linkStateChange (link : Fin 36) (up : Bool)
  | podBarrierArrival (p : Packet) | podBarrierPhase (p : Packet) | podBarvTimeout (c : Fin 256) (q : Role)
  | proxyAbsenceToken (p : Packet) | absenceTokenWithdrawal (p : Packet)
  -- Collective engines; `run` is the run's number
  | armedRunStart (die : Fin 2) (entry : Fin 16)
  | collSend (run : Nat) | collRecv (run : Nat) | collRrs (run : Nat) | collCopy (run : Nat)
  | collWait (run : Nat) | collSignal (run : Nat) | collLoop (run : Nat) | collEnd (run : Nat)
  | collDataArrival (p : Packet) | collCreditArrival (p : Packet) | collAckArrival (p : Packet)
  | collAbortArrival (p : Packet) | collRunTimeout (run : Nat)
  -- Recovery and integrity
  | taskWatchdogExpiry (stamp : Nat) | ladderLevelOverrun (job : Nat)
  | cairnHeartbeatMissing (n : Fin 16) | siroccoHeartbeatMissing | functionLevelReset
  | powerUp (record : Option CfgRecord)
  | parityError (site : ParitySite) | patrolScrub (granule : Nat) | powerCapClockStep
  | preemptionRequest (stamp : Nat) | preemptionSave (stamp : Nat) | preemptionAbandon (stamp : Nat)
  | saveLost (stamp : Nat)
  | shootdownReport (n : Fin 16)
  -- Host commands; the operand is the host queue whose next ring entry is consumed
  | launch (q : Fin 64) | framedef (q : Fin 64) | framefree (q : Fin 64) | ctxcfg (q : Fin 64)
  | shootdown (q : Fin 64) | keyinst (q : Fin 64) | ctxout (q : Fin 64) | ctxin (q : Fin 64)
  | preempt (q : Fin 64) | hostNop (q : Fin 64) | abort (q : Fin 64)
  | podjoin (q : Fin 64) | podremove (q : Fin 64) | podleave (q : Fin 64)
  -- Host register accesses
  | doorbell (q : Fin 64) (v : Word) | trigger (q : Fin 64) (v : Word) | qctl (q : Fin 64) (v : Word)
  | restart (v : Word) | pcap (v : Word) | eccCounterRead (id : Fin 45)
  | lsend (core : FwCore) (w : Word) | lrecv (core : FwCore)
  -- a write of `bytes` bytes of `v` at BAR0 offset `off`
  | registerWrite (off bytes : Nat) (v : Word)
  -- Firmware update, attestation and the Sandglass
  | getVersion (req : List Byte) | getCapabilities (req : List Byte) | negotiateAlgorithms (req : List Byte)
  | getDigests (req : List Byte) | getCertificate (req : List Byte) | challenge (req : List Byte)
  | getMeasurements (index : Nat)
  | sandglassRead (first count : Nat)
  -- The finer steps
  | accessPerformed (id : Nat) | rowUpdate (cmd : Nat) | entryFilled (cmd : Nat)
  | illegalEncoding (detail : BitVec 8) (eval : Word)
  | imageStaged (component : Nat) (image : List Byte)
  -- The rows without an operand stand last: a compiled value carries at most 245 constructors with fields
  | shootdownTimeout | verifyComplete | activateFirmware | handoverHeartbeatTimeout | handOverComplete
  deriving DecidableEq, Repr, Inhabited

end Sys2Proof
end

