-- ==== Sys2Proof/Config.lean ====
section
/-! DEFINITION. What one implementation fixes, and the free values: constants without a body, of which no proof can see a value. -/

namespace Sys2Proof

/-- FREE VALUE: the byte that decryption under another key than the writer's gives (R104): arguments are the writer's key material,
the 64 bytes of the line as the writer left them, the reader's key material and the byte's physical address. -/
opaque Config.wrongKeyByte : Nat → List Byte → Nat → Nat → Byte

/-- FREE VALUE: what is read where a save slot, the source of a row or buffer that is rebuilt, a saved accumulator column, a saved stack
byte, a launch record or a record of the Caravan SRAM cannot be read (R83 to R85, R158, R214, R269, R270 and R285 name no fault there):
the argument numbers the byte. -/
opaque Config.lostByte : Nat → Byte

/-- FREE VALUE: EVAL of a trap whose cause names no value and no address (TOKEN_OVERFLOW, FORMAT_UNDERFLOW; R258 and R259 state
none): arguments are CYCLE and 4 × cell + SEQ. -/
opaque Config.unstatedEval : Nat → Nat → Word

/-- FREE VALUE: which valid next hop the hash of source, destination, class and agent picks (R239). -/
opaque Config.hopHash : Nat → Nat → Nat → Nat → Nat

/-- FREE VALUE: the die set's stepping, `STEPMAJ` and `STEPMIN` of IDENT (R279). -/
opaque Config.stepping : BitVec 16

/-- FREE VALUE: the version words of the images the device leaves the factory with (R279). -/
opaque Config.siroccoVersion : BitVec 32
opaque Config.cairnVersion : BitVec 32

/-- FREE VALUE: the average package power of the n-th 1 ms window at a matrix clock in MHz, in W (R17, R279). -/
opaque Config.power : Nat → Nat → BitVec 32

/-- FREE VALUE: the bytes of SRAM that one caravan record occupies, a store record (a sector with its byte mask, R215) or a reduction
(R224 gives the sizes of the SRAM and of the spill areas, not of a record). One record fits the share of 512 KiB that R224 reserves for
a context. -/
opaque Config.recordBytes : Bool → Fin 524289

/-- FREE VALUE: the byte offset in its Caravan SRAM, outbound (false) or inbound (true), at which the record of an order number lies. -/
opaque Config.recordAt : Bool → Nat → Fin 33554432

/-- FREE VALUE: the byte offset of the 32 MiB staging region in scheduler memory (R289). -/
opaque Config.stagingAt : Fin 33554433

/-- FREE VALUE: whether the host answers a read of its memory at a bus address (R286). -/
opaque Config.hostAnswers : Nat → Bool

/-- FREE VALUE: the SHA-512 digests that measurements 1 to 4 of R292 report, by index and by the bytes of what is measured. -/
opaque Config.measurement : Nat → List Byte → List Byte

/-- FREE VALUE: the images the device leaves the factory with, and its boot ROM. -/
opaque Config.siroccoImage : List Byte
opaque Config.cairnImage : List Byte
opaque Config.bootRom : List Byte

/-- FREE VALUE: the certificate chain of the device, its digest, and the signature over a transcript (R292). -/
opaque Config.certChain : Nat → List Byte
opaque Config.certDigest : Nat → List Byte
opaque Config.signature : List Byte → List Byte

/-- FREE VALUE: the bits of an SPDM reply's body that R292 does not lay out. -/
opaque Config.spdmBody : Nat → List Byte → List Byte

/-- FREE VALUE: whether an image's or a record's RSA-4096/SHA-512 signature verifies against the boot ROM's key chain (R289, R291). -/
opaque Config.verifies : List Byte → Bool

/-- FREE VALUE: the security version number, the target and the length that an image's header names (R289 names the checks and
gives no layout of the header). -/
opaque Config.imageSvn : List Byte → Nat
opaque Config.imageTarget : List Byte → Nat
opaque Config.imageLength : List Byte → Nat
opaque Config.imageVersion : List Byte → BitVec 32

/-- FREE VALUE: what the bytes of a configuration record say (R291 names its contents and gives no layout). -/
opaque Config.recordOf : List Byte → CfgRecord

end Sys2Proof
end

