-- ==== Sys2Proof/Machine/State.lean ====
section
/-! DEFINITION. The machine's state as plain data: one device of a pod, with everything the spec gives it, and its state after reset. -/

namespace Sys2Proof.Machine

/-- Where the machine stops. The device itself never stops; the one case is an address the spec says does not exist. -/
inductive Fault where
  /-- Raised by an access through a valid 4 TiB leaf with APER 0 (level 1, R91) whose physical address lies at or beyond the
  512 GiB of HBM that R12 gives: no memory answers there and no rule names a cause. SAFE: the model stops. -/
  | noSuchHbm (pa : Nat)
  deriving DecidableEq, Repr

/-- What the model gives no meaning to. -/
inductive Refusal where
  /-- Raised by an arm of `exec` that has no meaning yet. SAFE: the model stops. -/
  | notModelled (mnemonic : String)
  deriving DecidableEq, Repr

/-! ### Sparse maps: the canonical form of memory, flags, key tags and accumulators -/

/-- A map from naturals, strictly rising in its keys, that lists no entry equal to what an unlisted key reads as. -/
abbrev SMap (β : Type) := List (Nat × β)

/-- The memory of every space of the device and of the host, one canonical list of cells. -/
abbrev Memory := List Host.Cell

/-! ### Sequencers -/

/-- One level of a loop stack (R388). -/
structure LoopLevel where
  start : Word
  stop : Word
  remain : Word
  deriving DecidableEq, Repr, Inhabited

/-- A fault found by an engine, pending for a sequencer (R264). -/
structure PendFault where
  cmd : Nat
  code : BitVec 8
  detail : BitVec 8
  level : BitVec 2
  eval : Word
  prog : Nat
  eng : BitVec 3
  stream : Fin 16
  deriving DecidableEq, Repr, Inhabited

/-- What a waiting sequencer waits for (R45); `elapsed` counts the mc that count towards the wait's bound. -/
inductive Wait where
  | tokens (mask : BitVec 3)
  /-- entries of data queues that must be filled -/
  | popQueue (need : List (Fin 4 × Nat))
  /-- free entries that a data queue must have -/
  | pushQueue (q : Fin 4) (n : Nat)
  | fmtEmpty | fmtFull
  | engine (eng : Nat)
  | flag (addr : Word) (cc : Cond) (ref : BitVec 32) (trap : Bool) (d : Reg) (bound elapsed : Nat) (sat : Option (BitVec 32))
  | barrier (addr : Word) (phase : BitVec 4) (trap : Bool) (d : Reg) (elapsed : Nat) (sat : Option Word)
  | step (t : BitVec 32) (trap : Bool) (d : Reg) (bound elapsed : Nat) (sat : Bool)
  | pause (left : Nat)
  | post (id : Nat)
  | home (id : Nat) (addr : Word) (arrive : BitVec 8) (trap sent : Bool) (d : Reg) (left : Nat)
  deriving DecidableEq, Repr, Inhabited

/-- What a sequencer is doing. -/
inductive SeqStatus where
  /-- no task runs on the cell -/
  | idle
  | ready
  | waiting (w : Wait)
  /-- END has been executed (R42) -/
  | ended
  /-- halted by a double fault (R262) or stopped by an abort (R44) -/
  | halted
  /-- at its stopping point for a pre-emption (R268) -/
  | stopped
  deriving DecidableEq, Repr, Inhabited

/-- One sequencer (R22). -/
structure Seq where
  pc : Word
  g : Vector Word 32
  cause : Word
  epc : Word
  eval : Word
  eprog : Word
  tvec : Word
  esave : Word
  wintmo : BitVec 32
  /-- innermost level first -/
  loops : List LoopLevel
  status : SeqStatus
  /-- tokens taken by the instruction that waits after its takes (R265) -/
  held : BitVec 3
  /-- the value a satisfied wait hands to the instruction when it issues again (R46, R47) -/
  latch : Option Word
  /-- an access of the instruction at PC stalls on an inbound window: its address and the mc it has stalled (R229); a stalled
  sequencer stays in the ready set (R381) -/
  stall : Option (Word × Nat)
  /-- the bounded wait in which a pre-emption stopped the sequencer, with which it goes on where the attempt is given up (R268) -/
  paused : Option Wait
  /-- deferred faults, the one whose command issued first at the head (R264) -/
  pending : List PendFault
  /-- the traps being handled, the latest first, each with the command held for its report, if any (R266) -/
  reports : List (Option Nat)
  deriving DecidableEq, Repr, Inhabited

/-! ### Cells -/

/-- One reserved entry of a data queue, filled once its data arrive (R36). -/
structure QEntry where
  id : Nat
  data : Option VReg
  deriving DecidableEq, Repr, Inhabited

/-- What a save records of an LDA that owns live ring rows (R158). -/
structure LdaRec where
  table : AgImage
  first : Nat
  rows : Nat
  deriving DecidableEq, Repr, Inhabited

/-- A frame descriptor as captured (R54). -/
structure FrameDesc where
  base : Word
  alt : Word
  ndim : Nat
  wcode : Nat
  ext : Vector Nat 4
  pitch : Vector Nat 4
  deriving DecidableEq, Repr, Inhabited

/-- The access mode of a box (R59, R61). -/
inductive BoxMode where
  | R | W | RW | A | WOV
  deriving DecidableEq, Repr, Inhabited

/-- A box of a task: its frame's captured descriptor and bound version stand beside it (R59, R66). -/
structure TaskBox where
  mode : BoxMode
  frame : Nat
  desc : FrameDesc
  version : Nat
  lo : Vector Nat 4
  hi : Vector Nat 4
  deriving DecidableEq, Repr, Inhabited

/-- One cell (R22 to R42). -/
structure Cell where
  /-- stamp of the task that occupies the cell -/
  task : Option Nat
  seqs : Vector Seq 4
  /-- counts of KL, KC, KS, LK, LC, LS, CK, CL, CS, SK, SL, SC (R25) -/
  tokens : Vector Nat 12
  /-- gives reserved and not yet made (R29, R30) -/
  reserved : Vector Nat 12
  /-- ld0, ld1, sd0, sd1, head first (R34) -/
  dq : Vector (List QEntry) 4
  /-- format queue, head first (R142) -/
  fmtq : List Word
  v : Vector VReg 24
  m : Vector Moment 16
  /-- FPCTL 2:0 (R126) -/
  fpctl : BitVec 3
  /-- FPFLG 5:0 (R127) -/
  fpflg : BitVec 6
  /-- VL 10:0 (R164) -/
  vl : BitVec 11
  /-- ACCP 11:0 (R90) -/
  accp : BitVec 12
  /-- address-generator shadows (R139) -/
  ag : Vector AgImage 8
  /-- tables that AGLDs of this mc have read, latest last; a shadow holds them from the next mc on (R139, R334) -/
  agNew : List (Fin 8 × AgImage)
  /-- sequence number at the ring head, and the next number an LDA is assigned (R135) -/
  ringHead : Nat
  ringNext : Nat
  /-- rows delivered and not yet free, by sequence number -/
  ring : List (Nat × RingRow)
  ldaRecs : List LdaRec
  bbuf : Vector BBuf 2
  /-- latched table and order of the last LDB to each buffer (R158) -/
  bsrc : Vector (Option (AgImage × Nat)) 2
  ldbCount : Nat
  args : Vector Word 6
  fbase : Vector Word 8
  ticket : Word
  ctx : Fin 64
  accFirst : Nat
  accEnd : Nat
  boxes : List TaskBox
  /-- task watchdog count, and whether the task made progress in this mc (R272) -/
  watchdog : Nat
  progress : Bool
  /-- a pre-emption asks the sequencers to stop at their stopping points (R268) -/
  stopReq : Bool
  deriving DecidableEq, Repr

/-! ### Engine commands -/

/-- The engines that take long-form commands, by ENG of R258. -/
inductive Eng where
  | load | matrix | drain | chain | copy | xpose | nmv | coll
  deriving DecidableEq, Repr, Inhabited

/-- Who issued a command. -/
inductive Owner where
  | seq (c : Fin 256) (q : Role)
  | task (stamp : Nat)
  deriving DecidableEq, Repr, Inhabited

/-- What a command does, with everything it latched at issue. -/
inductive CmdOp where
  | lda (t : AgImage) (q0 n : Nat)
  | ldb (b : Fin 2) (t : AgImage)
  | mma (acc n q0 : Nat) (b : Fin 2) (fw : Word) (z keep : Bool) (arr : BBuf)
  | drain (first n : Nat) (mode : DrainMode) (ty : Nat) (sat : Bool) (lh : Nat) (tD tM : AgImage) (eps : BitVec 32) (after : List Nat)
  | ldv (q : Fin 2) (t : AgImage) (ids : List Nat)
  | stv (t : AgImage) (data : List VReg)
  | vgath (q : Fin 2) (t : AgImage) (base : Word) (ty : Nat) (ids : List Nat)
  | vscat (t : AgImage) (base : Word) (ty : Nat) (data : List VReg)
  /-- `flg`: the flags of the elements so far -/
  | chain (desc : AgImage) (ctl : BitVec 3) (tA tB tD : AgImage) (flg : BitVec 6)
  | cpy (tD tS : AgImage)
  | xpose (tD tS : AgImage) (param : Word)
  /-- `x`: the vector, once it has been read -/
  | nmv (desc : AgImage) (x : Option (List Byte))
  | coll (desc : AgImage)
  deriving DecidableEq, Repr, Inhabited

/-- Where a command stands in its life. -/
inductive CmdState where
  | queued
  /-- at the queue head, its guard reads 0 (R204) -/
  | guarded
  | started
  /-- stopped at a fault, pending or held for its handler (R156, R266) -/
  | faulted
  deriving DecidableEq, Repr, Inhabited

/-- One engine command (R298), or the operation of an engine task (R20). `unit` is the cell of a cell's own engine and the die of a die's engine. -/
structure Cmd where
  id : Nat
  eng : Eng
  unit : Nat
  owner : Owner
  stamp : Nat
  ctx : Fin 64
  stream : Fin 16
  guard : BitVec 8
  gives : BitVec 3
  step : BitVec 32
  /-- boxes of the task, against which its accesses are checked -/
  boxes : List TaskBox
  op : CmdOp
  state : CmdState
  prog : Nat
  /-- mc for which an access of the command has stalled on an inbound window (R229); 0 when none does -/
  stalled : Nat
  deriving DecidableEq, Repr, Inhabited

/-! ### The Erg -/

/-- A frame that is defined or freeing (R57, R58). -/
structure Frame where
  id : Nat
  ctx : Fin 64
  desc : FrameDesc
  current : Nat
  freeing : Bool
  deriving DecidableEq, Repr, Inhabited

/-- The kinds of R20. -/
inductive TaskKind where
  | cell | copy | xpose | nmv | coll
  deriving DecidableEq, Repr, Inhabited

/-- The states of a task in flight (R40). -/
inductive TaskState where
  | posted | ready | running | ending | suspended
  deriving DecidableEq, Repr, Inhabited

/-- A pre-emption of a running task (R268). -/
structure PreemptReq where
  slot : Nat
  /-- time of the request, and of the start of step 4, in fs -/
  since : Nat
  saving : Option Nat
  /-- host queue that asked, if any -/
  queue : Option (Fin 64)
  deriving DecidableEq, Repr, Inhabited

/-- A task in flight (R40, R69, R78). -/
structure Task where
  stamp : Nat
  ctx : Fin 64
  kind : TaskKind
  place : Nat
  prio : Nat
  /-- class after the raises of R49 -/
  cls : Nat
  accFirst : Nat
  accEnd : Nat
  body : Word
  cflag : Word
  tokens : BitVec 48
  args : Vector Word 6
  /-- engine payload, record bytes +0x20 to +0x5F, and the tables a COPY or XPOSE post captured (R350, R436) -/
  payload : AgImage
  tabS : AgImage
  tabD : AgImage
  boxes : List TaskBox
  slices : List Nat
  primary : Nat
  preds : List Nat
  state : TaskState
  cell : Option (Fin 256)
  /-- cycle of the last entry into READY or of the last raise -/
  readySince : Nat
  /-- outstanding claim of a bounded launch: the clusters of CMASK (R284) -/
  claim : Option (BitVec 16)
  /-- launch record that posted it (R84) -/
  launch : Option Nat
  slot : Option Nat
  req : Option PreemptReq
  /-- while it is suspended: the barrier objects of its cell's page, by group, and its watchdog count (R270, R272) -/
  pageObjs : List Nat
  watchdog : Nat
  deriving DecidableEq, Repr

/-- Who waits for the result of a post-sequencer operation. -/
inductive PostFrom where
  | seq (c : Fin 256) (q : Role) (d : Reg)
  | host (q : Fin 64)
  | trigger (q : Fin 64)
  | remote (src : Nat) (job : Nat) (id : Nat)
  deriving DecidableEq, Repr, Inhabited

/-- The operations that pass through the post sequencer (R57). -/
inductive PostOp where
  | task (record : List Byte)
  | frdef (id : Nat) (desc : List Byte)
  | frfree (id : Nat)
  | larm (index : Nat)
  | lpatch (x v : Word)
  | launch (index : Nat) (plist : Nat)
  deriving DecidableEq, Repr, Inhabited

/-- One operation queued at the post sequencer, or refused and waiting for its repeat (R72). -/
structure PostReq where
  id : Nat
  src : PostFrom
  ctx : Fin 64
  op : PostOp
  wait : Bool
  issued : Nat
  bound : Nat
  /-- it stands in the queue of the post sequencer, and is not waiting for its repeat -/
  queued : Bool
  /-- result of the last attempt, and its cycle -/
  last : Option Word
  lastAt : Nat
  /-- tasks in flight at the last attempt, and the cycle from which one of them has been seen to be gone -/
  inFlight : List Nat
  freedAt : Option Nat
  deriving DecidableEq, Repr, Inhabited

/-- One entry of the ring of abnormal ends (R80). -/
structure AbEnd where
  stamp : Nat
  ctx : Fin 64
  aborted : Bool
  deriving DecidableEq, Repr, Inhabited

/-! ### Translation -/

/-- A cached leaf (R99): the page's first virtual address, its size and the leaf's entry value. -/
structure TlbEntry where
  ctx : Fin 64
  va : Nat
  size : Nat
  level : Nat
  leaf : Word
  deriving DecidableEq, Repr, Inhabited

/-- An uncorrectable error that a consumer finds: memory id, local cell index, and the address of its event (R109, R294). -/
structure UeInfo where
  mem : Fin 45
  cellIx : Nat
  addr : Word
  deriving DecidableEq, Repr

/-- A fault in which a walk ended: cause, detail, level and, for an uncorrectable entry, its error (R93, R107). -/
structure WalkFault where
  code : BitVec 8
  detail : BitVec 8
  level : BitVec 2
  ue : Option UeInfo
  deriving DecidableEq, Repr

/-- How a walk ended: in a fault, or at a leaf. -/
inductive WalkEnd where
  | fault (f : WalkFault)
  | leaf (t : TlbEntry)
  deriving DecidableEq, Repr

/-- A walk of one 64 KiB granule for the accesses that wait on it (R100): the cell whose caches it fills, if the access is of one, and
the accessing agent. Of the walks that have not ended the first 64 hold the walkers, and the others wait in arrival order. A walk that
ended stays until its waiters take its fault, or its leaf where they have no cache. -/
structure Walk where
  id : Nat
  ctx : Fin 64
  granule : Nat
  waiters : List (Option (Fin 256) × Nat)
  /-- the word of ROOT and EN, and TKEY, as they stood when the walk took its walker (R86) -/
  regs : Option (Word × Nat)
  ended : Option WalkEnd
  deriving DecidableEq, Repr

/-- A shootdown in progress (R102). -/
structure ShootJob where
  queue : Fin 64
  ctx : Fin 64
  va : Nat
  len : Nat
  /-- time of issue in fs -/
  since : Nat
  reported : List (Fin 16)
  /-- clusters on which W3 still runs -/
  w3 : List (Fin 16)
  /-- controllers that have invalidated their entries, and the stores then awaited: those translated under an invalidated entry -/
  invalidated : List (Fin 16)
  awaited : List Nat
  timedOut : Bool
  deriving DecidableEq, Repr, Inhabited

/-- A plain store that has issued and is not yet performed (R182). -/
structure PStore where
  id : Nat
  cell : Fin 256
  role : Role
  stream : Fin 16
  ctx : Fin 64
  /-- memory key, byte, key material under which it is written -/
  bytes : List (Nat × Byte × Nat)
  /-- virtual address of the first byte, for a shootdown -/
  va : Nat
  deriving DecidableEq, Repr, Inhabited

/-! ### Peers -/

/-- A read of peer memory that has left the device (R155, R217). -/
structure PeerRead where
  id : Nat
  /-- the reader (`Agent.reader`) -/
  reader : Nat
  ctx : Fin 64
  rank : Nat
  va : Nat
  len : Nat
  host : Bool
  step : BitVec 32
  /-- held in the remote-line cache when it arrives (R105) -/
  cached : Bool
  since : Nat
  ans : Option PeerAns
  deriving DecidableEq, Repr, Inhabited

/-- A line of the remote-line cache: 64 bytes of a rank, with the running step of the read that brought it (R105). -/
structure RemoteLine where
  ctx : Fin 64
  rank : Nat
  step : BitVec 32
  /-- virtual address / 64 -/
  line : Nat
  bytes : List Byte
  deriving DecidableEq, Repr, Inhabited

/-- A read of a peer that waits here for a boundary (R217). -/
structure ServeWait where
  ctx : Fin 64
  packet : Packet
  deriving DecidableEq, Repr, Inhabited

/-- A TPOSTX whose answer is awaited (R82). -/
structure Remote where
  id : Nat
  ctx : Fin 64
  cell : Fin 256
  role : Role
  rank : Nat
  res : Word
  flag : Nat
  boxes : List TaskBox
  since : Nat
  /-- the answer, while its store stalls on an inbound window, and the mc it has stalled (R229) -/
  ans : Option Word
  stalled : Nat
  deriving DecidableEq, Repr, Inhabited

/-- An error in the granules of the Caravan SRAM that hold a record (R106). -/
inductive RecErr where
  | none | single | double
  deriving DecidableEq, Repr, Inhabited

/-- A record of the outbound caravan (R214, R215) and how far it has come. -/
structure OutRec where
  ctx : Fin 64
  dst : Nat
  wr : CaravanRec
  spilled : Bool
  reserved : Bool
  sent : Bool
  arrived : Bool
  err : RecErr
  deriving DecidableEq, Repr, Inhabited

/-- A record in the inbound staging (R214). -/
structure InRec where
  ctx : Fin 64
  src : Nat
  wr : CaravanRec
  err : RecErr
  deriving DecidableEq, Repr, Inhabited

/-- What one destination reported of one step (R233). -/
structure DestEntry where
  rank : Nat
  /-- bytes of the step's records for it, and of those that reached no staging there (R231 cause 0x05) -/
  bytes : Nat
  lost : Nat
  result : Option DestResult
  deriving DecidableEq, Repr, Inhabited

/-- A boundary record (R233). -/
structure BoundRec where
  step : BitVec 32
  dests : List DestEntry
  complete : Bool
  /-- time at which this device applied the boundary, in fs -/
  appliedAt : Option Nat
  deriving DecidableEq, Repr, Inhabited

/-- A sealed step whose seal has not been forwarded (R225, R226). -/
structure SealJob where
  step : BitVec 32
  sent : Bool
  defs : List WinDef
  deriving DecidableEq, Repr, Inhabited

/-- A child's seal held here (R226). -/
structure ChildSeal where
  rank : Nat
  step : BitVec 32
  defs : List WinDef
  deriving DecidableEq, Repr, Inhabited

/-! ### Contexts -/

/-- One hardware context: its register blocks (R86, R211, R267, R278) and its step state (R210 to R237). -/
structure Ctx where
  root : Word
  vbase : Word
  vlimit : Nat
  vslot : Nat
  spillpri : Nat
  rename : Nat
  scratch : Nat
  tkey : Nat
  owner : Nat
  ispill : Nat
  ospill : Nat
  ospbase : Word
  ispbase : Word
  mcbase : Word
  stmo : BitVec 32
  savebase : Word
  slots : Nat
  twd : BitVec 32
  wdef : BitVec 32
  equota : Nat
  lbase : Nat
  joined : Bool
  rank : Nat
  job : Nat
  lead : Nat
  isRoot : Bool
  parent : Nat
  children : List Nat
  live : BitVec 4096
  step : BitVec 32
  applied : BitVec 32
  absent : Bool
  conflict : Bool
  partialEnd : Bool
  /-- ranks absent under a proxy absence token -/
  away : List Nat
  wins : List WinDef
  /-- IWDEF and CRULE changes of the running step, carried with its seal (R221) -/
  newDefs : List WinDef
  sealJobs : List SealJob
  childSeals : List ChildSeal
  /-- boundaries released to this device and not yet applied -/
  released : List (BitVec 32)
  records : List BoundRec
  /-- conflicts under FAULT not yet reported: step and lowest byte (R232) -/
  conflicts : List (BitVec 32 × Word)
  switchedOut : Bool
  /-- this device's proxy absence token stands (R237) -/
  tokenOut : Bool
  usedSlots : List Nat
  /-- STEP and STEPST at the start of this mc, which is what an RDS of it reads (R302) -/
  stepSeen : Word
  stepstSeen : Word
  deriving DecidableEq, Repr

/-! ### Collectives -/

/-- Where a run comes from (R241). -/
inductive RunSrc where
  | cmd (id : Nat)
  | entry (idx : Fin 16)
  deriving DecidableEq, Repr, Inhabited

/-- A send of a run (R246 to R248). -/
structure CollSendRec where
  dst : Nat
  n : Nat
  addr : Nat
  len : Nat
  /-- the source bytes, once read -/
  data : Option (List Byte)
  sent : Bool
  acked : Bool
  deriving DecidableEq, Repr, Inhabited

/-- The receive a run is blocked on (R246, R250). -/
structure CollRecvRec where
  src : Nat
  n : Nat
  op : Nat
  base : Nat
  addr : Nat
  len : Nat
  /-- words that have arrived, by word index -/
  got : List Nat
  /-- tiles made ready -/
  tiles : List Nat
  forward : Option Nat
  deriving DecidableEq, Repr, Inhabited

/-- A LOOP body that is running: which counter, first step, last step, count (R246). -/
structure CollLoop where
  isJ : Bool
  first : Nat
  last : Nat
  count : Nat
  deriving DecidableEq, Repr, Inhabited

/-- The flag condition on which a run's WAIT is registered, and whether a value has met it (R46, R246). -/
structure CollWait where
  addr : Nat
  cc : Cond
  ref : BitVec 32
  sat : Bool
  deriving DecidableEq, Repr, Inhabited

/-- One run (R241). -/
structure Run where
  id : Nat
  die : Fin 2
  src : RunSrc
  ctx : Fin 64
  stamp : Nat
  desc : AgImage
  runNo : BitVec 32
  step : BitVec 32
  prog : List Word
  team : List Nat
  pc : Nat
  i : Nat
  j : Nat
  loops : List CollLoop
  sends : List CollSendRec
  recv : Option CollRecvRec
  /-- messages sent to and received from each rank so far -/
  sentTo : List (Nat × Nat)
  recvFrom : List (Nat × Nat)
  wait : Option CollWait
  /-- mc since the run started, and mc for which an access of it has stalled on an inbound window (R229, R256) -/
  elapsed : Nat
  stalled : Nat
  deriving DecidableEq, Repr, Inhabited

/-- One entry slot of a collective engine (R252, R253). -/
structure ArmedEntry where
  ctx : Fin 64
  desc : AgImage
  t0 : BitVec 32
  run : BitVec 32
  disarm : Bool
  /-- armed in this mc: T0 follows the trigger flag until the mc ends (R342) -/
  fresh : Bool
  deriving DecidableEq, Repr, Inhabited

/-- A credit that a receiver granted before this device's send asked for it (R248). -/
structure Credit where
  ctx : Fin 64
  tag : Nat
  src : Nat
  n : Nat
  len : Nat
  deriving DecidableEq, Repr, Inhabited

/-! ### Host and firmware -/

/-- A trigger that waits behind ring entries (R285). -/
structure Trig where
  plist : Nat
  index : Nat
  after : BitVec 32
  deriving DecidableEq, Repr, Inhabited

/-- What a host queue is executing. -/
inductive HostBusy where
  | none
  | post (trigger : Bool)
  | shootdown
  | preempt (stamp : Nat)
  | abort (stamp : Nat)
  | ctxout (c : Fin 64) (refused : Bool)
  | ctxin (c : Fin 64)
  deriving DecidableEq, Repr, Inhabited

/-- One host queue (R280, R281). -/
structure HQueue where
  en : Bool
  bounded : Bool
  admin : Bool
  ctx : Fin 64
  cmask : BitVec 16
  rbase : Word
  logn : Nat
  cbase : Word
  doorbell : BitVec 32
  consumed : BitVec 32
  completed : BitVec 32
  /-- SEQ of the entry that was read last -/
  entry : BitVec 32
  tcount : BitVec 32
  /-- records written since EN rose -/
  nrec : Nat
  trigs : List Trig
  busy : HostBusy
  msix : Nat
  deriving DecidableEq, Repr, Inhabited

/-- The two copies of a queue's control block with the commit word: the generation number, and which copy is current (R288). -/
structure QCopies where
  copyA : HQueue
  copyB : HQueue
  gen : BitVec 63
  isB : Bool
  deriving DecidableEq, Repr, Inhabited

/-- One Sandglass event (R293). -/
structure SandEvent where
  number : Nat
  ns : Nat
  word : Word
  payload : Word
  deriving DecidableEq, Repr, Inhabited

/-- A recovery level that is acting (R272). -/
structure LadderJob where
  id : Nat
  level : Nat
  /-- the cell of W1 and W2, the cluster of W3, 0 above -/
  scope : Nat
  trigger : Nat
  detail : Nat
  deadline : Nat
  deriving DecidableEq, Repr, Inhabited

/-- A command link between Sirocco and one cairn controller (R287). -/
structure Link where
  /-- words waiting at the cairn end and at the Sirocco end, oldest first -/
  toCairn : List Word
  toSirocco : List Word
  permitS : Nat
  permitC : Nat
  dropS : Bool
  dropC : Bool
  lostS : Bool
  lostC : Bool
  deriving DecidableEq, Repr, Inhabited

/-- An image staged for an update (R289). -/
structure Staged where
  component : Nat
  image : List Byte
  verified : Bool
  deriving DecidableEq, Repr, Inhabited

/-- Firmware state (R287 to R292). -/
structure Firmware where
  siroccoVer : BitVec 32
  cairnVer : BitVec 32
  cfgst : BitVec 2
  svn : BitVec 32
  /-- record that takes effect at the next power-up or W5 -/
  nextRecord : Option CfgRecord
  record : Option CfgRecord
  staged : Option Staged
  /-- hot hand-over in progress since this time, with the image, and the cairn controllers replaced so far (R290) -/
  handover : Option (Nat × Staged)
  replaced : Nat
  /-- the images that run (R292) -/
  siroccoImage : List Byte
  cairnImage : List Byte
  /-- corrected single-bit errors of the memories of the Sirocco core and of the 16 cairn controllers (R276) -/
  corrected : Vector Nat 17
  /-- W4 restart in progress: consumption is stopped -/
  restarting : Bool
  links : Vector Link 16
  linkSel : Fin 16
  /-- times of the last heartbeats, and the cores that hang and send none (R272) -/
  cairnBeat : Vector Nat 16
  siroccoBeat : Nat
  hungC : BitVec 16
  hungS : Bool
  deriving DecidableEq, Repr

/-- What leaves over MCTP (R289, R292, R293). -/
inductive MctpOut where
  | verifyResult (ok : Bool)
  | activated
  | spdm (code : Nat) (body : List Byte)
  | events (evs : List SandEvent)
  deriving DecidableEq, Repr, Inhabited

/-- What the outside does to the device that no row of the table names. -/
inductive Outside where
  /-- the host writes one byte of its own memory or of scheduler memory through BAR2 (R277) -/
  | hostByte (key : Nat) (v : Byte)
  /-- a double-bit error strikes a granule (R106) -/
  | badGranule (granule : Nat)
  | badAcc (cell row col : Nat)
  /-- a single-bit error strikes a granule, or an accumulator column (R106) -/
  | softGranule (granule : Nat)
  | softAcc (cell row col : Nat)
  /-- an error strikes the record of an order number in the outbound or the inbound Caravan SRAM (R106) -/
  | recordError (inbound : Bool) (order : Nat) (double : Bool)
  /-- a parity error drops what the translation caches of a cell, or the remote-line cache, hold for an address (R106) -/
  | cacheError (c : Fin 256) (va : Nat)
  | lineError (va : Nat)
  /-- a firmware core stops sending heartbeats, or sends them again -/
  | coreHang (core : FwCore) (hung : Bool)
  | linkSelect (n : Fin 16)
  /-- a firmware core writes LSTAT, whose bits DROP and heartbeat lost are W1C (R287) -/
  | linkStatus (core : FwCore) (v : Word)
  /-- the next device acknowledges a packet, by its sequence number (R240) -/
  | linkAck (seqNo : Nat)
  /-- the outbound record of this order number has reached its receiver's inbound staging (R225) -/
  | recordStaged (order : Nat)
  /-- a host read of a device register, with its side effects -/
  | regRead (off bytes : Nat)
  /-- a host read of scheduler memory through BAR2 (R277) -/
  | schedRead (off bytes : Nat)
  /-- a firmware core reads one of its link CSRs, 0x7C0 to 0x7C4, other than LRECV (R287) -/
  | csrRead (core : FwCore) (csr : Nat)
  /-- the driver writes one byte of a context's page tables in local HBM (R91, R102) -/
  | hostTable (ctx : Fin 64) (pa : Nat) (v : Byte)
  deriving DecidableEq, Repr, Inhabited

/-- One entry of the agenda: who moves next. -/
inductive Turn where
  | issue (c : Fin 256) (q : Role)
  /-- an issue that a rule puts last in its cycle: an SSEAL (R408), a give that would overflow and a take that waits (R31) -/
  | late (c : Fin 256) (q : Role)
  | event (i : Instr)
  | outside (o : Outside)
  deriving DecidableEq, Repr, Inhabited

/-- Time and the counter from which numbers come. -/
structure Clock where
  /-- CYCLE (R301) -/
  cycle : Word
  /-- time since power-up in fs (R3) -/
  fs : Nat
  /-- next number for commands, posts, walks, packets and the like (the model's own field) -/
  nextId : Nat
  deriving DecidableEq, Repr

/-- A 64-byte line of HBM as its last writer left it (R104): the key material it is encrypted under, the bytes that were not written
since that material took the line over, and, where there are any, the material before it with the 64 bytes the line then held. -/
structure KeyLine where
  mat : Nat
  stale : BitVec 64
  was : Option (Nat × List Byte)
  deriving DecidableEq, Repr, Inhabited

/-- Memory, flags, accumulators, their protection, and translation. -/
structure MemSys where
  bytes : Memory
  /-- the encrypted lines, by address / 64; unlisted: a line in the clear (R104) -/
  keyTags : SMap KeyLine
  /-- flags, by context × 2^18 + word index in the aperture (R199) -/
  flags : SMap (BitVec 32)
  /-- first flag of each barrier object that BINIT has made, by the same key (R205) -/
  objs : List Nat
  /-- accumulator rows, by cell × 2,048 + row (R89) -/
  acc : SMap AccRow
  /-- granules with a double-bit and with a single-bit error (R106) -/
  bad : List Nat
  soft : List Nat
  /-- accumulator columns with a double-bit and with a single-bit error, by (cell × 2,048 + row) × 256 + column -/
  badAcc : List Nat
  softAcc : List Nat
  /-- error counters by memory id, UE in 63:32 and CE in 31:0 (R109) -/
  ecc : Vector (BitVec 64) 45
  /-- stores that have issued and are not yet performed, oldest first (R182) -/
  pend : List PStore
  micro : Vector (List TlbEntry) 256
  cluster : Vector (List TlbEntry) 16
  walks : List Walk
  /-- key slots that hold a key: material + 1 and owner, 64 for shared (R103) -/
  keys : SMap (Nat × Nat)
  deriving DecidableEq, Repr

/-- The Erg and the post sequencer. -/
structure ErgState where
  tasks : List Task
  frames : List Frame
  /-- operations queued at the post sequencer, oldest first -/
  posts : List PostReq
  /-- next post stamp (R71) -/
  nextStamp : Nat
  /-- context + 1 of every task that has been posted, by its stamp: TSTAT tells a context's own tickets from others (R80) -/
  issuers : SMap Nat
  /-- rotating pointers p_n and q (R76) -/
  ptrN : Vector (BitVec 4) 16
  ptrQ : BitVec 4
  /-- last 4,096 abnormal ends, oldest first, and the watermark (R80) -/
  abEnds : List AbEnd
  watermark : Nat
  /-- clusters to which release is stopped (R272, R290) -/
  quiet : BitVec 16
  deriving DecidableEq, Repr

/-- The Caravan, the fabric and reads of peers. -/
structure Fabric where
  reads : List PeerRead
  /-- the remote-line cache, oldest line first (R105) -/
  lines : List RemoteLine
  serveWaits : List ServeWait
  remotes : List Remote
  outRecs : List OutRec
  inRecs : List InRec
  /-- bytes counted against a quota: context, step, rank, window, byte address (R223) -/
  quotaUsed : List (Nat × Nat × Nat × Nat × Nat)
  routes : Vector (BitVec 32) 4096
  linkUp : Vector Bool 36
  /-- packets not yet acknowledged by the next device, with their link (R240) -/
  unacked : List (Nat × Packet)
  /-- packets that have left the device, newest first: link, virtual channel, and the packet as the next device receives it (R239) -/
  out : List (Nat × Nat × Packet)
  /-- sequence numbers already received, by source (R240) -/
  seen : List (Nat × Nat)
  deriving DecidableEq, Repr

/-- The two collective engines (R241). -/
structure CollState where
  entries : Vector (Vector (Option ArmedEntry) 16) 2
  runs : List Run
  credits : List Credit
  deriving DecidableEq, Repr

/-- The host interface and the device block (R277 to R285). -/
structure HostIf where
  queues : Vector HQueue 64
  shoot : Option ShootJob
  cap : Nat
  badw : Bool
  mclk : Nat
  /-- number of 1 ms power windows so far, and the clock at the end of the last one (R17) -/
  window : Nat
  lastClk : Nat
  /-- the copies of the queue control blocks (R288) -/
  copies : Vector QCopies 64
  /-- value of the last BAR0 or CSR read, as its reader receives it -/
  readData : Word
  deriving DecidableEq, Repr

/-- Recovery, firmware, management and the Sandglass. -/
structure Mgmt where
  ladder : List LadderJob
  fw : Firmware
  mctp : List MctpOut
  /-- management events signalled on MSI-X vector 64 (R277) -/
  irq : Nat
  /-- the last 8,192 events, oldest first, and how many were written (R293) -/
  sand : List SandEvent
  sandCount : Nat
  deriving DecidableEq, Repr

/-- The whole machine. -/
structure State where
  /-- the sequencer for which `exec` acts -/
  cell : Fin 256
  role : Role
  /-- who moves next within this mc; empty between two mc -/
  agenda : List Turn
  /-- the outside's choices of timing: bit k of the head defers the k-th enabled event of the next mc -/
  arbiter : List Nat
  clk : Clock
  mem : MemSys
  cells : Vector Cell 256
  /-- engine commands, the one that issued first at the head -/
  cmds : List Cmd
  erg : ErgState
  ctxs : Vector Ctx 64
  fab : Fabric
  col : CollState
  host : HostIf
  mgmt : Mgmt
  deriving DecidableEq, Repr

/-! ### Reset -/

/-- R258, R301: every trap register is 0 after reset. DESIGN CHOICE (log entry 2): PC and the g-registers of a sequencer on which
no task has started hold 0. -/
def Seq.reset : Seq where
  pc := 0
  g := Vector.replicate 32 0
  cause := 0
  epc := 0
  eval := 0
  eprog := 0
  tvec := 0
  esave := 0
  wintmo := 0x00100000
  loops := []
  status := .idle
  held := 0
  latch := none
  stall := none
  paused := none
  pending := []
  reports := []

/-- The empty moment value (R177). -/
def emptyMoment : Moment := BitVec.ofNat 128 (0x7FC0E000 * 2 ^ 64)

/-- A cell on which no task has started; R41 sets all of it at the start of a task. -/
def Cell.reset : Cell where
  task := none
  seqs := Vector.replicate 4 Seq.reset
  tokens := Vector.replicate 12 0
  reserved := Vector.replicate 12 0
  dq := Vector.replicate 4 []
  fmtq := []
  v := Vector.replicate 24 0
  m := Vector.replicate 16 emptyMoment
  fpctl := 0
  fpflg := 0
  vl := 0
  accp := 0
  ag := Vector.replicate 8 0
  agNew := []
  ringHead := 0
  ringNext := 0
  ring := []
  ldaRecs := []
  bbuf := Vector.replicate 2 0
  bsrc := Vector.replicate 2 none
  ldbCount := 0
  args := Vector.replicate 6 0
  fbase := Vector.replicate 8 0
  ticket := 0
  ctx := 0
  accFirst := 0
  accEnd := 0
  boxes := []
  watchdog := 0
  progress := false
  stopReq := false

/-- The reset columns of R86, R211, R212, R267 and R278. -/
def Ctx.reset : Ctx where
  root := 0
  vbase := 0
  vlimit := 0
  vslot := 0
  spillpri := 0
  rename := 0
  scratch := 0
  tkey := 0
  owner := 0
  ispill := 0
  ospill := 0
  ospbase := 0
  ispbase := 0
  mcbase := 0
  stmo := 0x4000
  savebase := 0
  slots := 0
  twd := 0x400
  wdef := 0x00100000
  equota := 4096
  lbase := 0
  joined := false
  rank := 0
  job := 0
  lead := 0
  isRoot := false
  parent := 0
  children := []
  live := 0
  step := 0
  applied := 0
  absent := false
  conflict := false
  partialEnd := false
  away := []
  wins := []
  newDefs := []
  sealJobs := []
  childSeals := []
  released := []
  records := []
  conflicts := []
  switchedOut := false
  tokenOut := false
  usedSlots := []
  stepSeen := 0
  stepstSeen := 0

/-- The reset column of R280. -/
def HQueue.reset : HQueue where
  en := false
  bounded := false
  admin := false
  ctx := 0
  cmask := 0
  rbase := 0
  logn := 4
  cbase := 0
  doorbell := 0
  consumed := 0
  completed := 0
  entry := 0
  tcount := 0
  nrec := 0
  trigs := []
  busy := .none
  msix := 0

/-- A command link after power-up: empty, every permit at its sender (R287). -/
def Link.reset : Link where
  toCairn := []
  toSirocco := []
  permitS := 16
  permitC := 16
  dropS := false
  dropC := false
  lostS := false
  lostC := false

/-- Firmware after power-up with no configuration record (R19, R291). -/
def Firmware.reset : Firmware where
  siroccoVer := Config.siroccoVersion
  cairnVer := Config.cairnVersion
  cfgst := 0
  svn := 0
  nextRecord := none
  record := none
  staged := none
  handover := none
  replaced := 0
  siroccoImage := Config.siroccoImage
  cairnImage := Config.cairnImage
  corrected := Vector.replicate 17 0
  restarting := false
  links := Vector.replicate 16 Link.reset
  linkSel := 0
  cairnBeat := Vector.replicate 16 0
  siroccoBeat := 0
  hungC := 0
  hungS := false

/-- The machine right after power-up with no configuration record (R19): no task, no context configured, nothing in memory, and the
Sandglass with its one POWERUP event (R293, R294). -/
def State.reset : State where
  cell := 0
  role := .K
  agenda := []
  arbiter := []
  clk := ⟨0, 0, 0⟩
  mem :=
    ⟨[], [], [], [], [], [], [], [], [], Vector.replicate 45 0, [], Vector.replicate 256 [], Vector.replicate 16 [], [], []⟩
  cells := Vector.replicate 256 Cell.reset
  cmds := []
  erg := ⟨[], [], [], 1, [], Vector.replicate 16 0, 0, [], 0, 0⟩
  ctxs := Vector.replicate 64 Ctx.reset
  fab := ⟨[], [], [], [], [], [], [], Vector.replicate 4096 0, Vector.replicate 36 false, [], [], []⟩
  col := ⟨Vector.replicate 2 (Vector.replicate 16 none), [], []⟩
  host :=
    ⟨Vector.replicate 64 HQueue.reset, none, 2400, false, 1900, 0, 1900,
      Vector.replicate 64 ⟨HQueue.reset, HQueue.reset, 0, false⟩, 0⟩
  mgmt := ⟨[], Firmware.reset, [], 0, [⟨0, 0, 0x02000001, 0⟩], 1⟩

end Sys2Proof.Machine
end

