-- ==== Sys2Proof/Machine/Bits.lean ====
section
/-! DEFINITION. Bit fields, byte order and sparse maps: the helpers every operation uses (R2, R8). -/

namespace Sys2Proof.Machine

/-- Bits `lo + n - 1 : lo` of a natural number. -/
def bitsOf (x lo n : Nat) : Nat := x / 2 ^ lo % 2 ^ n

/-- Bits `lo + n - 1 : lo` of a word. -/
def field (w : Word) (lo n : Nat) : Nat := bitsOf w.toNat lo n

/-- One bit of a word. -/
def bitAt (w : Word) (i : Nat) : Bool := w.toNat / 2 ^ i % 2 == 1

/-- A word from a natural number. -/
def word (n : Nat) : Word := BitVec.ofNat 64 n

/-- A word from an integer, modulo 2^64 (R7). -/
def wordOfInt (i : Int) : Word := BitVec.ofInt 64 i

/-- `Sext(x, n)` of R8, modulo 2^64. -/
def sextWord (n x : Nat) : Word := wordOfInt (sextNat n x)

/-- The `n` bytes of a number, little-endian (R2). -/
def bytesOf : Nat → Nat → List Byte
  | 0, _ => []
  | n + 1, x => BitVec.ofNat 8 x :: bytesOf n (x / 256)

/-- The number that bytes spell, little-endian (R2). -/
def natOf : List Byte → Nat
  | [] => 0
  | b :: bs => b.toNat + 256 * natOf bs

/-- The number that `n` bytes at offset `off` spell; bytes beyond the list read as 0. -/
def natAt (bs : List Byte) (off n : Nat) : Nat := natOf ((bs.drop off).take n)

/-- The last `n` entries of a list, and the entries before them. -/
def keepLast {α : Type} (n : Nat) (l : List α) : List α := (l.reverse.take n).reverse

def dropLastN {α : Type} (n : Nat) (l : List α) : List α := (l.reverse.drop n).reverse

/-- `Clamp` of R8. -/
def clampInt (x lo hi : Int) : Int := if x < lo then lo else if x > hi then hi else x

/-- The largest power of two below `n`, for `n ≥ 2` (R179). -/
def powBelow : Nat → Nat → Nat
  | 0, _ => 1
  | k + 1, n => if 2 ^ k < n then 2 ^ k else powBelow k n

/-- Applying a function to every entry of a vector, through the list of its entries. -/
def vmap {α β : Type} {n : Nat} (f : α → β) (v : Vector α n) : Vector β n := ⟨(v.toList.map f).toArray, by simp⟩

/-! ### Sparse maps in canonical form -/

/-- The value of a key: `d` where no entry is listed. The list rises, so the search ends at the first larger key. -/
def smGet {β : Type} (d : β) (k : Nat) : SMap β → β
  | [] => d
  | (k', v) :: t => if k < k' then d else if k = k' then v else smGet d k t

/-- Writing a key. Writing `d` removes the entry, so that equal maps are equal lists. -/
def smSet {β : Type} [DecidableEq β] (d : β) (k : Nat) (v : β) : SMap β → SMap β
  | [] => if v = d then [] else [(k, v)]
  | (k', v') :: t =>
    if k < k' then (if v = d then (k', v') :: t else (k, v) :: (k', v') :: t)
    else if k = k' then (if v = d then t else (k, v) :: t)
    else (k', v') :: smSet d k v t

/-- The canonical form: keys strictly rising, and no entry equal to the default. -/
def smWf {β : Type} [DecidableEq β] (d : β) : SMap β → Bool
  | [] => true
  | [(_, v)] => decide (v ≠ d)
  | (k, v) :: (k', v') :: t => decide (v ≠ d) && decide (k < k') && smWf d ((k', v') :: t)

/-- What an unlisted address of any memory reads as (DESIGN CHOICE, log entry 3). -/
def emptyByte : Byte := 0

/-- The canonical form of memory. -/
def Memory.wf (m : Memory) : Bool := smWf emptyByte m

/-! ### Words with named fields -/

/-- Replacing bits `lo + n - 1 : lo` of a number below 2^64. -/
def putBits (x lo n v : Nat) : Nat := x - bitsOf x lo n * 2 ^ lo + (v % 2 ^ n) * 2 ^ lo

/-- Replacing a field of a word. -/
def putField (w : Word) (lo n v : Nat) : Word := word (putBits w.toNat lo n v)

end Sys2Proof.Machine
end

