-- ==== Sys2Proof/Machine/Ops.lean ====
section
/-! DEFINITION. The named operations over registers, tokens, memory, flags and tasks, and taking a trap and returning from one. -/

namespace Sys2Proof.Machine

open Host (Outcome)

/-! ### Access to the parts of the state -/

/-- SEQ of a role (R22). -/
def roleIx : Role → Fin 4
  | .K => 0 | .L => 1 | .C => 2 | .S => 3

def roleOf : Fin 4 → Role
  | 0 => .K | 1 => .L | 2 => .C | 3 => .S

def allRoles : List Role := [.K, .L, .C, .S]

def State.cellAt (s : State) (c : Fin 256) : Cell := s.cells[c]

def State.setCell (s : State) (c : Fin 256) (x : Cell) : State := { s with cells := s.cells.set c x }

def Cell.seqOf (x : Cell) (q : Role) : Seq := x.seqs[roleIx q]

def Cell.setSeq (x : Cell) (q : Role) (y : Seq) : Cell := { x with seqs := x.seqs.set (roleIx q) y }

def State.seqAt (s : State) (c : Fin 256) (q : Role) : Seq := (s.cellAt c).seqOf q

def State.setSeq (s : State) (c : Fin 256) (q : Role) (y : Seq) : State := s.setCell c ((s.cellAt c).setSeq q y)

/-- The cell and the sequencer for which `exec` acts. -/
def State.myCell (s : State) : Cell := s.cellAt s.cell

def State.setMyCell (s : State) (x : Cell) : State := s.setCell s.cell x

def State.me (s : State) : Seq := s.seqAt s.cell s.role

def State.setMe (s : State) (y : Seq) : State := s.setSeq s.cell s.role y

/-- `G(n)` of R323: g0 reads 0 (R299). -/
def State.g (s : State) (r : Reg) : Word := if r = 0 then 0 else s.me.g[r]

/-- `SetG(n, x)` of R323: a write to g0 is discarded (R299). -/
def State.setG (s : State) (r : Reg) (v : Word) : State :=
  if r = 0 then s else s.setMe { s.me with g := s.me.g.set r v }

def State.ctxAt (s : State) (i : Fin 64) : Ctx := s.ctxs[i]

def State.setCtx (s : State) (i : Fin 64) (x : Ctx) : State := { s with ctxs := s.ctxs.set i x }

/-- The context of the task on the acting cell (R52). -/
def State.ctxIx (s : State) : Fin 64 := s.myCell.ctx

def State.myCtx (s : State) : Ctx := s.ctxAt s.ctxIx

def State.taskOf (s : State) (stamp : Nat) : Option Task := s.erg.tasks.find? (·.stamp == stamp)

def State.cmdOf (s : State) (id : Nat) : Option Cmd := s.cmds.find? (·.id == id)

def State.setCmd (s : State) (x : Cmd) : State :=
  { s with cmds := s.cmds.map fun y => if y.id == x.id then x else y }

def State.dropCmd (s : State) (id : Nat) : State := { s with cmds := s.cmds.filter fun y => y.id != id }

def State.setTask (s : State) (x : Task) : State :=
  { s with erg := { s.erg with tasks := s.erg.tasks.map fun y => if y.stamp == x.stamp then x else y } }

/-- Taking the next number. -/
def State.bump (s : State) : State := { s with clk := { s.clk with nextId := s.clk.nextId + 1 } }

/-- Cluster, local index and die of a cell (R10). -/
def clusterOf (c : Fin 256) : Fin 16 := ⟨c.val / 16, by omega⟩

def localIx (c : Fin 256) : Nat := c.val % 16

def dieOf (c : Fin 256) : Fin 2 := ⟨c.val / 128, by omega⟩

/-- Acting for another sequencer. -/
def State.onSeq (s : State) (c : Fin 256) (q : Role) (f : State → State) : State :=
  { f { s with cell := c, role := q } with cell := s.cell, role := s.role }

/-! ### Statuses and cause codes (R70, R203, R236, R259) -/

def stOK : Word := 0
def stFULL : Word := wordOfInt (-1)
def stFRAME : Word := wordOfInt (-2)
def stBOUNDS : Word := wordOfInt (-3)
def stQUOTA : Word := wordOfInt (-4)
def stUNREACHABLE : Word := wordOfInt (-5)
def stTIMEOUT : Word := wordOfInt (-6)
def stSTALE : Word := wordOfInt (-7)
def stOVERRUN : Word := wordOfInt (-8)
def stBUSY : Word := wordOfInt (-9)
def stNOTOWNER : Word := wordOfInt (-10)
def stAHEAD : Word := wordOfInt (-11)

def cILLEGAL : BitVec 8 := 0x01
def cROLE : BitVec 8 := 0x02
def cMISALIGNED : BitVec 8 := 0x03
def cPAGE : BitVec 8 := 0x04
def cACCESS : BitVec 8 := 0x05
def cREGION : BitVec 8 := 0x06
def cTOKEN : BitVec 8 := 0x08
def cFORMAT : BitVec 8 := 0x09
def cREMOTE : BitVec 8 := 0x0A
def cCARAVAN : BitVec 8 := 0x0B
def cLINK : BitVec 8 := 0x0C
def cUNCORR : BitVec 8 := 0x0D
def cCONFLICT : BitVec 8 := 0x0E
def cOVERRUN : BitVec 8 := 0x0F
def cTIMEOUT : BitVec 8 := 0x10
def cSOFTWARE : BitVec 8 := 0x11
def cBREAK : BitVec 8 := 0x12
def cDOUBLE : BitVec 8 := 0x13

/-! ### The Sandglass (R293, R294) -/

/-- Writes one event: type, source, the detail bits 63:28 of the word at +0x10, and the payload. Each event is a management event of MSI-X
vector 64 (R277, log entry 41). -/
def State.sandglass (s : State) (type source detail : Nat) (payload : Word) : State :=
  let e : SandEvent :=
    ⟨s.mgmt.sandCount, s.clk.fs / 1000000, word (type + source * 2 ^ 16 + detail * 2 ^ 28), payload⟩
  let l := s.mgmt.sand ++ [e]
  { s with mgmt := { s.mgmt with sand := keepLast 8192 l, sandCount := s.mgmt.sandCount + 1, irq := s.mgmt.irq + 1 } }

/-! ### Memory -/

/-- Keys of the spaces in the one memory: local HBM by physical address, then vaults, scheduler memory and host memory. -/
def vaultKey (v b : Nat) : Nat := 2 ^ 40 + v * 2 ^ 26 + b
def schedKey (o : Nat) : Nat := 2 ^ 41 + o
def hostKey (a : Nat) : Nat := 2 ^ 56 + a

def State.readKey (s : State) (k : Nat) : Byte := smGet emptyByte k s.mem.bytes

/-- A line in the clear. -/
def KeyLine.clear : KeyLine := ⟨0, 0, none⟩

/-- The 64-byte line of a byte (R104). -/
def State.lineOf (s : State) (k : Nat) : KeyLine := smGet KeyLine.clear (k / 64) s.mem.keyTags

/-- Key material of the byte's line, 0 for the clear (R104). -/
def State.tagOf (s : State) (k : Nat) : Nat := (s.lineOf k).mat

/-- The byte as its line's own key decrypts it: what was written, or, where that was before the key took the line over, what the new
key made of the old ciphertext (R104). -/
def State.lineByte (s : State) (k : Nat) : Byte :=
  if (s.lineOf k).stale.getLsbD (k % 64) then
    match (s.lineOf k).was with
    | some w => Config.wrongKeyByte w.1 w.2 (s.lineOf k).mat k
    | none => s.readKey k
  else s.readKey k

/-- The 64 bytes of the line that holds a byte. -/
def State.lineBytes (s : State) (k : Nat) : List Byte := (List.range 64).map fun i => s.lineByte (k / 64 * 64 + i)

/-- Byte `i` of a line has been written under the line's material. -/
def KeyLine.wrote (l : KeyLine) (i : Nat) : KeyLine :=
  let st := l.stale &&& ~~~(BitVec.ofNat 64 (2 ^ i))
  ⟨l.mat, st, if st = 0 then none else l.was⟩

/-- The line of a byte after a write of it under material `m`: the line is one data unit, so all of it is encrypted anew (R104). -/
def State.lineAfter (s : State) (k m : Nat) : KeyLine :=
  let l : KeyLine := if s.tagOf k = m then s.lineOf k else ⟨m, BitVec.allOnes 64, some (s.tagOf k, s.lineBytes k)⟩
  l.wrote (k % 64)

/-- Writes one byte under key material `m`. -/
def State.writeKey (s : State) (k : Nat) (v : Byte) (m : Nat) : State :=
  { s with mem := { s.mem with
      bytes := smSet emptyByte k v s.mem.bytes, keyTags := smSet KeyLine.clear (k / 64) (s.lineAfter k m) s.mem.keyTags } }

/-- The granules that a write covers whole are repaired (R107), and a single-bit error of a granule it touches is gone: R106 lets the
write replace the corrected word. DESIGN CHOICE (log entry 40): a write that covers part of such a granule counts no correction. -/
def State.repair (s : State) (keys : List Nat) : State :=
  { s with mem := { s.mem with
      bad := s.mem.bad.filter fun g => !((List.range 8).all fun i => keys.contains (g * 8 + i))
      soft := s.mem.soft.filter fun g => !(keys.any fun k => k / 8 == g) } }

/-- Writes bytes, each under its key material, in order. -/
def State.writeBytes (s : State) (bs : List (Nat × Byte × Nat)) : State :=
  (bs.foldl (fun (t : State) x => t.writeKey x.1 x.2.1 x.2.2) s).repair (bs.map (·.1))

/-- Reads `n` bytes of scheduler or host memory, where no key applies. -/
def State.readPlain (s : State) (k n : Nat) : List Byte := (List.range n).map fun i => s.readKey (k + i)

def State.writePlain (s : State) (k : Nat) (bs : List Byte) : State :=
  s.writeBytes (bs.zipIdx.map fun x => (k + x.2, x.1, 0))

/-! ### Stores that are not yet performed (R182, R184) -/

/-- Two stores of one sequencer that R184 orders: the same stream, or a common byte. -/
def PStore.orders (p q : PStore) : Bool :=
  p.stream == q.stream || p.bytes.any fun x => q.bytes.any fun y => x.1 == y.1

/-- Performs the chosen stores in the order they issued. -/
def State.performAll (s : State) (ps : List PStore) : State :=
  let chosen := s.mem.pend.filter fun p => ps.contains p
  let s1 := { s with mem := { s.mem with pend := s.mem.pend.filter fun p => !ps.contains p } }
  chosen.foldl (fun (t : State) p => t.writeBytes p.bytes) s1

/-- Performs every store of one sequencer (a release, or an engine command's issue, R186, R187). -/
def State.performSeq (s : State) (c : Fin 256) (q : Role) : State :=
  s.performAll (s.mem.pend.filter fun p => p.cell == c && p.role == q)

def State.performMine (s : State) : State := s.performSeq s.cell s.role

/-- The stores, among those of one sequencer given youngest first, that are seeds or that R184 orders before one. -/
def closeOver (seeds : List PStore) : List PStore → List PStore → List PStore
  | acc, [] => acc
  | acc, p :: older =>
    if seeds.contains p || acc.any fun q => p.orders q then closeOver seeds (p :: acc) older
    else closeOver seeds acc older

/-- Performs what R184 orders before an access of the acting sequencer: in stream `st` (when given) or to a common byte. -/
def State.performBefore (s : State) (st : Option (Fin 16)) (keys : List Nat) : State :=
  let mine := s.mem.pend.filter fun p => p.cell == s.cell && p.role == s.role
  let seeds := mine.filter fun p => st == some p.stream || p.bytes.any fun x => keys.contains x.1
  s.performAll (closeOver seeds [] mine.reverse)

/-- Performs one store and what R184 orders before it. -/
def State.performStore (s : State) (p : PStore) : State :=
  let older := (s.mem.pend.takeWhile fun x => x.id != p.id).filter fun x => x.cell == p.cell && x.role == p.role
  s.performAll (closeOver [] [p] older.reverse)

/-! ### Progress of the watchdog, and the end of an instruction -/

/-- Any progress restarts the task watchdog (R272). -/
def Cell.progressed (x : Cell) : Cell := { x with progress := true }

/-- The loop-end check of R389 on a loop stack (innermost level first) and the address that follows. -/
def loopCheck : List LoopLevel → Word → List LoopLevel × Word
  | [], next => ([], next)
  | l :: ls, next =>
    if l.stop.toNat ≤ next.toNat then
      if l.remain = 1 then loopCheck ls next else ({ l with remain := l.remain - 1 } :: ls, l.start)
    else (l :: ls, next)

/-- A transfer ends every level whose body its target lies outside of, and the levels inside it (R390). -/
def transferLoops : List LoopLevel → Word → List LoopLevel
  | [], _ => []
  | l :: ls, t =>
    let r := transferLoops ls t
    if r.length < ls.length then r
    else if l.start.toNat ≤ t.toNat && t.toNat < l.stop.toNat then l :: ls else ls

/-- HND of CAUSE (R258): while it is set no loop-end check is made and no transfer changes the stack (R391). -/
def Seq.hnd (q : Seq) : Bool := bitAt q.cause 31

/-- Where the sequencer goes on after an instruction at `pc` that ends at `next` (R389). -/
def Seq.goOn (q : Seq) (next : Word) : Seq :=
  if q.hnd then { q with pc := next }
  else { q with pc := (loopCheck q.loops next).2, loops := (loopCheck q.loops next).1 }

/-- The sequencer stands outside every LOOP. In a handler it does, whatever its stack holds: no loop-end check is made there, so no
iteration ends (R268, R391). -/
def Seq.outside (q : Seq) : Bool := q.loops.isEmpty || q.hnd

/-- The sequencer at its next instruction: it issues again, or stops for a pre-emption at a stopping point (R268): outside every
LOOP, or at the end of an iteration. A pending fault is reported first (R275). -/
def Seq.settle (q : Seq) (stop boundary : Bool) : Seq :=
  { q with
    status := if stop && q.pending.isEmpty && (q.outside || boundary) then .stopped else .ready
    held := 0
    latch := none
    stall := none }

/-- The end of an instruction of `len` bytes: PC moves on under R389. -/
def State.advance (s : State) (len : Nat) : State :=
  let x := s.myCell
  let q := s.me
  let q1 := q.goOn (q.pc + word len)
  s.setMyCell ((x.setSeq s.role (q1.settle x.stopReq (q1.loops != q.loops))).progressed)

/-- The end of a transfer of control to `t` (R390). -/
def State.jumpTo (s : State) (t : Word) : State :=
  let x := s.myCell
  let q := s.me
  let q1 := { q with pc := t, loops := if q.hnd then q.loops else transferLoops q.loops t }
  s.setMyCell ((x.setSeq s.role (q1.settle x.stopReq false)).progressed)

/-! ### Tokens (R25 to R33) -/

/-- The queue from `a` to `b`, numbered in the order of R25. -/
def tokenQueue (a b : Role) : Fin 12 :=
  match a, b with
  | .K, .L => 0 | .K, .C => 1 | .K, .S => 2
  | .L, .K => 3 | .L, .C => 4 | .L, .S => 5
  | .C, .K => 6 | .C, .L => 7 | .C, .S => 8
  | .S, .K => 9 | .S, .L => 10 | .S, .C => 11
  | .K, .K => 0 | .L, .L => 3 | .C, .C => 6 | .S, .S => 9

/-- The other sequencers in ascending SEQ order (R27). -/
def otherRoles : Role → List Role
  | .K => [.L, .C, .S] | .L => [.K, .C, .S] | .C => [.K, .L, .S] | .S => [.K, .L, .C]

/-- The roles a mask names (R27). -/
def maskRoles (q : Role) (mask : BitVec 3) : List Role :=
  ((otherRoles q).zipIdx.filter fun x => mask.getLsbD x.2).map (·.1)

def takeQueues (q : Role) (mask : BitVec 3) : List (Fin 12) := (maskRoles q mask).map fun r => tokenQueue r q

def giveQueues (q : Role) (mask : BitVec 3) : List (Fin 12) := (maskRoles q mask).map fun r => tokenQueue q r

/-- Every queue of the mask holds a token (R28). -/
def Cell.canTake (x : Cell) (q : Role) (mask : BitVec 3) : Bool :=
  (takeQueues q mask).all fun i => 1 ≤ x.tokens[i]

/-- Adding `up` to and then taking `down` from the counts of some queues. -/
def bumpCounts (v : Vector Nat 12) (qs : List (Fin 12)) (up down : Nat) : Vector Nat 12 :=
  qs.foldl (fun (w : Vector Nat 12) (i : Fin 12) => w.set i (w[i] + up - down)) v

def Cell.take (x : Cell) (q : Role) (mask : BitVec 3) : Cell :=
  { x with tokens := bumpCounts x.tokens (takeQueues q mask) 0 1 }

/-- Putting taken tokens back (R265, R325). -/
def Cell.putBack (x : Cell) (q : Role) (mask : BitVec 3) : Cell :=
  { x with tokens := bumpCounts x.tokens (takeQueues q mask) 1 0 }

/-- Some named queue's committed count is 255 (R30). -/
def Cell.overflows (x : Cell) (q : Role) (mask : BitVec 3) : Bool :=
  (giveQueues q mask).any fun i => 255 ≤ x.tokens[i] + x.reserved[i]

def Cell.reserveGives (x : Cell) (q : Role) (mask : BitVec 3) : Cell :=
  { x with reserved := bumpCounts x.reserved (giveQueues q mask) 1 0 }

/-- Making reserved gives (R29). -/
def Cell.makeGives (x : Cell) (q : Role) (mask : BitVec 3) : Cell :=
  { x with
    tokens := bumpCounts x.tokens (giveQueues q mask) 1 0
    reserved := bumpCounts x.reserved (giveQueues q mask) 0 1 }

/-- Gives made in the cycle they are reserved (R32). -/
def Cell.giveNow (x : Cell) (q : Role) (mask : BitVec 3) : Cell :=
  { x with tokens := bumpCounts x.tokens (giveQueues q mask) 1 0 }

/-- The gives of a command, made when it completes or is discarded (R29). -/
def State.cmdGives (s : State) (m : Cmd) : State :=
  match m.owner with
  | .seq c q => s.setCell c (((s.cellAt c).makeGives q m.gives).progressed)
  | .task _ => s

/-! ### Flags (R199 to R204) -/

/-- FA, the base of the flag aperture (R199). -/
def flagBase : Nat := 0xFFFFFF0000000000

def inAperture (a : Nat) : Bool := decide (flagBase ≤ a) && decide (a < flagBase + 0x00100000)

/-- The address lies on the device page, a cluster page or a cell page. -/
def flagPage (a : Nat) : Bool := decide (flagBase ≤ a) && decide (a < flagBase + 0x000C0000)

/-- Key of a flag by its address, in a context. -/
def flagKey (ctx : Fin 64) (a : Nat) : Nat := ctx.val * 2 ^ 18 + (a - flagBase) / 4

/-- Address of flag `i` of a cell's page, and of the device page. -/
def cellFlagAddr (c : Fin 256) (i : Nat) : Nat := flagBase + 0x00080000 + 0x400 * c.val + 4 * i

def deviceFlagAddr (i : Nat) : Nat := flagBase + 4 * i

def State.flagAt (s : State) (ctx : Fin 64) (a : Nat) : BitVec 32 := smGet 0 (flagKey ctx a) s.mem.flags

def State.putFlag (s : State) (ctx : Fin 64) (a : Nat) (v : BitVec 32) : State :=
  { s with mem := { s.mem with flags := smSet 0 (flagKey ctx a) v s.mem.flags } }

/-- A condition on two 32-bit values (R201). -/
def cond32 (cc : Cond) (x y : BitVec 32) : Bool :=
  match cc with
  | .eq => x == y | .ne => x != y
  | .lt => decide (x.toInt < y.toInt) | .ge => decide (y.toInt ≤ x.toInt)
  | .ltn => decide (x.toNat < y.toNat) | .gen => decide (y.toNat ≤ x.toNat)

/-- What a BWAIT for phase `p` finds in the second word of its object: nothing while it must wait (R208). -/
def phaseResult (p : BitVec 4) (w1 : BitVec 32) : Option Word :=
  let k := (w1.truncate 4 - p : BitVec 4).toNat
  if k = 0 then none else if k ≤ 7 then some stOK else some stSTALE

/-- An FWAIT registered on the flag, or a BWAIT on the object whose second word it is, is satisfied by the write (R46). -/
def Seq.seesFlag (q : Seq) (a : Nat) (v : BitVec 32) : Seq :=
  match q.status with
  | .waiting (.barrier addr p t d e none) =>
    if addr.toNat + 4 = a then { q with status := .waiting (.barrier addr p t d e (phaseResult p v)) } else q
  | .waiting (.flag addr cc ref t d bound e none) =>
    if addr.toNat = a && cond32 cc v ref then { q with status := .waiting (.flag addr cc ref t d bound e (some v)) } else q
  | _ => q

/-- The WAIT of a run that is registered on the flag is satisfied by the write (R46, R246). -/
def Run.seesFlag (r : Run) (ctx : Fin 64) (a : Nat) (v : BitVec 32) : Run :=
  match r.wait with
  | none => r
  | some w => if r.ctx == ctx && w.addr == a && cond32 w.cc v w.ref then { r with wait := some { w with sat := true } } else r

def State.wakeFlag (s : State) (ctx : Fin 64) (a : Nat) (v : BitVec 32) : State :=
  { s with
    cells := vmap (fun (x : Cell) =>
      if x.task.isSome && x.ctx == ctx then { x with seqs := vmap (fun (q : Seq) => q.seesFlag a v) x.seqs } else x) s.cells
    col := { s.col with runs := s.col.runs.map fun r => r.seesFlag ctx a v } }

/-- The guard flag a command is held on, if it is at its queue head (R204). -/
def Cmd.guardAddr (m : Cmd) : Option Nat :=
  match m.owner, m.state with
  | .seq c _, .guarded => some (cellFlagAddr c m.guard.toNat)
  | _, _ => none

/-- The four command slots of a collective engine are in use (R241). -/
def State.slotsBusy (s : State) (unit : Nat) : Bool :=
  decide (4 ≤ (s.cmds.filter fun m => m.eng == .coll && m.unit == unit && (m.state == .started || m.state == .faulted)).length)

/-- The run of a COLL command or of a kind-4 task; its program and team are read next (R243). -/
def State.newRun (s : State) (m : Cmd) (d : AgImage) : State :=
  let r : Run :=
    { id := s.clk.nextId, die := Fin.ofNat 2 m.unit, src := .cmd m.id, ctx := m.ctx, stamp := m.stamp, desc := d, runNo := 0
      step := m.step, prog := [], team := [], pc := 0, i := 0, j := 0, loops := [], sends := [], recv := none, sentTo := []
      recvFrom := [], wait := none, elapsed := 0, stalled := 0 }
  { s.bump with col := { s.col with runs := s.col.runs ++ [r] } }

/-- Starting a command: an MMA copies its B buffer whole at its start (R136, R146), a time within its first 16 mc (DESIGN CHOICE, log entry
6); a COLL takes a command slot, or waits for one with its guard decided (R241). -/
def State.startCmd (s : State) (m : Cmd) : State :=
  match m.op with
  | .mma acc n q0 b fw z k _ =>
    match m.owner with
    | .seq c _ => s.setCmd { m with state := .started, op := .mma acc n q0 b fw z k (s.cellAt c).bbuf[b] }
    | .task _ => s.setCmd { m with state := .started }
  | .coll d =>
    if s.slotsBusy m.unit then s.setCmd { m with state := .queued, guard := 0 }
    else (s.setCmd { m with state := .started }).newRun m d
  | _ => s.setCmd { m with state := .started }

/-- Filling the entries of a queue that a discarded push had reserved with zero bytes (R386). -/
def Cell.zeroFill (x : Cell) (ids : List Nat) : Cell :=
  { x with dq := vmap (fun (l : List QEntry) =>
    l.map fun e => if ids.contains e.id && e.data.isNone then { e with data := some 0 } else e) x.dq }

/-- A walk without one of its waiters, or nothing where no waiter is left. -/
def Walk.without (k : Walk) (reader : Nat) : Option Walk :=
  let l := k.waiters.filter fun w => w.2 != reader
  if l.isEmpty then none else some { k with waiters := l }

/-- A walk that takes its walker reads ROOT, EN and TKEY as they stand (R86). -/
def State.takeWalker (s : State) (k : Walk) : Walk :=
  if k.regs.isNone then { k with regs := some ((s.ctxAt k.ctx).root, (s.ctxAt k.ctx).tkey) } else k

/-- Handing `n` walkers to the walks that have not ended, in arrival order (R100). -/
def State.handWalkers (s : State) : Nat → List Walk → List Walk
  | 0, ks => ks
  | _, [] => []
  | n + 1, k :: ks => if k.ended.isSome then k :: s.handWalkers (n + 1) ks else s.takeWalker k :: s.handWalkers n ks

def State.startWalks (s : State) (ks : List Walk) : State := { s with mem := { s.mem with walks := s.handWalkers 64 ks } }

/-- Forgetting the reads of peers and the walks that an agent waits for. -/
def State.dropReads (s : State) (reader : Nat) : State :=
  ({ s with fab := { s.fab with reads := s.fab.reads.filter fun r => r.reader != reader } } : State).startWalks
    (s.mem.walks.filterMap fun k => k.without reader)

/-- Ring rows that an MMA has read: whole groups of hA rows (R134, R135). -/
def Cmd.rowsRead (m : Cmd) (fw : Word) : Nat :=
  let h := 2 ^ (fw.toNat / 2 ^ 8 % 8)
  m.prog / h * h

/-- An MMA that is assigned ring row `q` and has not read it. -/
def Cmd.needsRow (m : Cmd) (q : Nat) : Bool :=
  match m.op with
  | .mma _ n q0 _ fw _ _ _ => decide (q0 + m.rowsRead fw ≤ q) && decide (q < q0 + n)
  | _ => false

/-- A ring row is free once the head has passed it and every MMA assigned to it has read it (R135). -/
def State.rowFree (s : State) (c : Fin 256) (q : Nat) : Bool :=
  decide (q < (s.cellAt c).ringHead) && !(s.cmds.any fun m => m.unit == c.val && m.needsRow q)

/-- Dropping the bytes of the ring rows that are free. -/
def State.sweepRing (s : State) (c : Fin 256) : State :=
  let x := s.cellAt c
  s.setCell c { x with ring := x.ring.filter fun r => !s.rowFree c r.1 }

/-- Discarding a command: its gives are made, and what it had reserved is left as its rule says (R29, R156, R386). -/
def State.discardCmd (s : State) (m : Cmd) : State :=
  let s1 := (s.dropCmd m.id).dropReads (4096 + m.id)
  let s2 :=
    match m.owner, m.op with
    | .seq c _, .ldv _ _ ids => s1.setCell c ((s1.cellAt c).zeroFill ids)
    | .seq c _, .vgath _ _ _ _ ids => s1.setCell c ((s1.cellAt c).zeroFill ids)
    | .seq c _, .mma .. => s1.sweepRing c
    | _, _ => s1
  s2.cmdGives m

/-- The first non-zero value of a guard decides (R204). -/
def State.resolveGuard (s : State) (m : Cmd) (v : BitVec 32) : State :=
  if v = 0 then s
  else if v = 1 then s.startCmd m
  else
    let s1 := s.discardCmd m
    if v = 2 then s1
    else
      match m.owner with
      | .seq c _ => s1.sandglass 0x0005 c.val (m.guard.toNat + m.ctx.val * 2 ^ 8) (v.zeroExtend 64)
      | .task _ => s1

/-- Every command held on the flag decides on the value written. -/
def State.resolveGuards (s : State) (ctx : Fin 64) (a : Nat) (v : BitVec 32) : State :=
  (s.cmds.filter fun m => m.ctx == ctx && m.guardAddr == some a).foldl (fun t m => t.resolveGuard m v) s

/-- The barrier object the flag belongs to, if BINIT has made one there (R205). -/
def State.isObj (s : State) (ctx : Fin 64) (a : Nat) : Bool := s.mem.objs.contains (flagKey ctx a / 4 * 4)

/-- The word a write leaves: on the second word of a barrier object WAITERS and AH are the unit's own (R205). -/
def State.maintained (s : State) (ctx : Fin 64) (a : Nat) (v : BitVec 32) : BitVec 32 :=
  if s.isObj ctx a && flagKey ctx a % 4 == 1 then
    (v &&& 0x0000FFDF#32) ||| (s.flagAt ctx a &&& 0xFFFF0020#32)
  else v

/-- A word's new value reaches every waiter and every held command (R46, R200, R204). -/
def State.showFlag (s : State) (ctx : Fin 64) (a : Nat) (v : BitVec 32) : State :=
  ((s.putFlag ctx a v).wakeFlag ctx a v).resolveGuards ctx a v

/-- Writing a flag. -/
def State.writeFlag (s : State) (ctx : Fin 64) (a : Nat) (v : BitVec 32) : State :=
  s.showFlag ctx a (s.maintained ctx a v)

/-- An atomic add on a flag. -/
def State.addFlag (s : State) (ctx : Fin 64) (a : Nat) (n : BitVec 32) : State :=
  s.writeFlag ctx a (s.flagAt ctx a + n)

/-! ### Host completions (R283) -/

/-- Writes a completion record, then COMPLETED or TCOUNT, then raises the queue's vector. -/
def State.hostComplete (s : State) (q : Fin 64) (trigger : Bool) (result : Word) : State :=
  let h := s.host.queues[q]
  let seq : Nat := if trigger then (h.tcount + 1).toNat else h.entry.toNat
  let rec16 := bytesOf 4 seq ++ bytesOf 4 (if trigger then 2 ^ 31 else 0) ++ bytesOf 8 result.toNat
  let s1 := s.writePlain (hostKey (h.cbase.toNat + h.nrec % 2 ^ h.logn * 16)) rec16
  let h1 : HQueue := { h with
    completed := if trigger then h.completed else h.consumed
    tcount := if trigger then h.tcount + 1 else h.tcount
    nrec := h.nrec + 1
    busy := .none
    msix := h.msix + 1 }
  { s1 with host := { s1.host with queues := s1.host.queues.set q h1 } }

/-! ### Tasks leaving the Erg (R40 to R44, R57, R80) -/

/-- Frames that are freeing and have no user left become free (R57). -/
def State.freeFrames (s : State) : State :=
  { s with erg := { s.erg with frames := s.erg.frames.filter fun f =>
      !f.freeing || s.erg.tasks.any fun t => t.boxes.any fun b => b.frame == f.id } }

/-- The ring of abnormal ends takes one entry; the watermark is the highest stamp it has dropped (R80). -/
def State.abnormal (s : State) (e : AbEnd) : State :=
  let l := s.erg.abEnds ++ [e]
  let dropped := dropLastN 4096 l
  { s with erg := { s.erg with
      abEnds := keepLast 4096 l
      watermark := dropped.foldl (fun m x => max m x.stamp) s.erg.watermark } }

/-- Freeing a save slot of a context. -/
def State.freeSlot (s : State) (ctx : Fin 64) (slot : Option Nat) : State :=
  match slot with
  | none => s
  | some k => s.setCtx ctx { s.ctxAt ctx with usedSlots := (s.ctxAt ctx).usedSlots.filter (· != k) }

/-- A context switch that waits for pre-emptions learns that one was refused (R271). -/
def HQueue.refuseOut (h : HQueue) (ctx : Fin 64) : HQueue :=
  match h.busy with
  | .ctxout c _ => if c = ctx then { h with busy := .ctxout c true } else h
  | _ => h

/-- Ending a pre-emption without a save: the slot is free, and its requester learns BUSY (R268). -/
def State.dropReq (s : State) (ctx : Fin 64) (req : Option PreemptReq) : State :=
  match req with
  | none => s
  | some r =>
    let s1 := s.freeSlot ctx (some r.slot)
    match r.queue with
    | some q => s1.hostComplete q false stBUSY
    | none => s1

/-- Taking a task out of the Erg and adding to its completion flag (R43, R44). -/
def State.leaveErg (s : State) (t : Task) (amount : BitVec 32) : State :=
  let s0 := { s with erg := { s.erg with tasks := s.erg.tasks.filter fun x => x.stamp != t.stamp } }
  let s1 := s0.freeFrames.dropReq t.ctx t.req
  if t.cflag = 0 then s1 else s1.addFlag t.ctx t.cflag.toNat amount

/-- Cancelling the tasks that depend, directly or through others, on tasks that ended abnormally (R44). -/
def State.cancelDependents : Nat → State → List Nat → State
  | 0, s, _ => s
  | n + 1, s, gone =>
    match s.erg.tasks.find? (fun t => t.preds.any fun p => gone.contains p) with
    | none => s
    | some t =>
      State.cancelDependents n ((s.leaveErg t 0x00010001).abnormal ⟨t.stamp, t.ctx, false⟩) (t.stamp :: gone)

/-- Ending a task ABORTED or CANCELLED with its dependents (R44). -/
def State.endAbnormal (s : State) (t : Task) (aborted : Bool) : State :=
  let s1 := (s.leaveErg t 0x00010001).abnormal ⟨t.stamp, t.ctx, aborted⟩
  State.cancelDependents s1.erg.tasks.length s1 [t.stamp]

/-- One predecessor less; the last makes a posted task READY (R48). -/
def Task.withoutPred (t : Task) (stamp now : Nat) : Task :=
  let p := t.preds.filter (· != stamp)
  if (t.preds.contains stamp && p.isEmpty && t.state == TaskState.posted) then
    { t with preds := p, state := .ready, readySince := now }
  else { t with preds := p }

/-- A task that retires leaves its dependents with one predecessor less (R48). -/
def State.readyDependents (s : State) (stamp : Nat) : State :=
  { s with erg := { s.erg with tasks := s.erg.tasks.map fun t => t.withoutPred stamp s.clk.cycle.toNat } }

/-- A BWAIT that ends takes itself out of WAITERS (R208). -/
def State.lowerWaiters (s : State) (ctx : Fin 64) (a : Nat) : State :=
  s.showFlag ctx (a + 4) (s.flagAt ctx (a + 4) - 0x00010000#32)

/-- Ending a sequencer's wait from outside: tokens it took go back, and a BWAIT leaves its object (R265, R270). -/
def State.endWait (s : State) (c : Fin 256) (q : Role) : State :=
  let x := s.cellAt c
  let y := x.seqOf q
  let s1 := s.setCell c ((x.putBack q y.held).setSeq q { y with held := 0, latch := none, stall := none })
  match y.status with
  | .waiting (.barrier addr _ _ _ _ _) => s1.lowerWaiters x.ctx addr.toNat
  | _ => s1

/-- All four sequencers stop (R44). -/
def State.haltCell (s : State) (c : Fin 256) : State :=
  let s1 := allRoles.foldl (fun t q => t.endWait c q) s
  let x := s1.cellAt c
  s1.setCell c { x with seqs := vmap (fun (q : Seq) => { q with status := .halted, pending := [], reports := [] }) x.seqs }

/-- Sandglass source of an engine task (R293). -/
def engineSource (die : Nat) (k : TaskKind) : Nat :=
  0x300 + die * 4 + (match k with | .cell => 0 | .copy => 0 | .xpose => 1 | .nmv => 2 | .coll => 3)

/-- Sandglass source of the end of a task: its cell, its engine, or, for a CELL task that never had a cell, the I/O die (log entry 20). -/
def Task.source (t : Task) : Nat :=
  match t.cell with
  | some c => c.val
  | none => if t.kind == TaskKind.cell then 0x400 else engineSource (t.primary / 8) t.kind

/-- Whether a command of the task has started and still runs. -/
def State.hasStarted (s : State) (stamp : Nat) : Bool :=
  s.cmds.any fun m => m.stamp == stamp && m.state == .started

/-- Making a cell free (R21). The task's accumulator rows, queues and registers are set again at the next start (R41, R53). -/
def State.freeCell (s : State) (c : Fin 256) : State :=
  let x := s.cellAt c
  s.setCell c { x with
    task := none
    stopReq := false
    seqs := vmap (fun (q : Seq) => { q with status := .idle, held := 0, latch := none, pending := [], reports := [] }) x.seqs
    tokens := Vector.replicate 12 0
    reserved := Vector.replicate 12 0
    dq := Vector.replicate 4 []
    fmtq := []
    ring := []
    ldaRecs := [] }

/-- Freeing a cell, with the reads of peers its sequencers had made. -/
def State.clearCell (s : State) (c : Fin 256) : State :=
  allRoles.foldl (fun (t : State) q => t.dropReads (c.val * 4 + (roleIx q).val)) (s.freeCell c)

/-- A run of a COLL command or of a kind-4 task that has no bound of its own: it ends with its task (R256). -/
def Run.endsWith (r : Run) (stamp : Nat) : Bool :=
  match r.src with
  | .cmd _ => r.stamp == stamp && bitsOf r.desc.toNat (8 * 0x38 + 32) 32 == 0
  | .entry _ => false

/-- Runs without a bound end with their aborted task: DONE counts an abnormal end (log entry 19). -/
def State.endUnbounded (s : State) (stamp : Nat) : State :=
  let gone := s.col.runs.filter (·.endsWith stamp)
  let s1 := { s with
    cmds := s.cmds.filter fun m => !(gone.any fun r => r.src == .cmd m.id)
    col := { s.col with runs := s.col.runs.filter fun r => !r.endsWith stamp } }
  gone.foldl (fun (u : State) r =>
    let done := bitsOf r.desc.toNat (8 * 0x30 + 16) 16
    let v := u.dropReads (2 ^ 40 + r.id)
    if done = 0 then v else v.addFlag r.ctx (deviceFlagAddr done) 0x00010001) s1

/-- Aborting a task (R44, R273): commands that have not started are discarded, started ones run to their end, and the cell is
free after them. Stores that have issued are performed: any subset may be visible. -/
def State.abortTask (s : State) (stamp detail level : Nat) (cause : Nat) : State :=
  match s.taskOf stamp with
  | none => s
  | some t =>
    let src := t.source
    let s1 := s.sandglass 0x0002 src (t.ctx.val + level * 2 ^ 6 + detail * 2 ^ 9 + cause * 2 ^ 16) (word stamp)
    let s2 := { s1 with cmds := s1.cmds.filter fun m => !(m.stamp == stamp && m.state != CmdState.started) }
    let s3 := s2.freeSlot t.ctx t.slot
    let s4 := s3.endUnbounded stamp
    let s5 := { s4 with erg := { s4.erg with posts := s4.erg.posts.filter fun p =>
        match p.src with
        | .seq c _ _ => !(some c == t.cell && t.state != TaskState.suspended)
        | _ => true } }
    let s6 :=
      match t.cell with
      | none => s5
      | some c =>
        if t.state == TaskState.suspended then s5
        else
          let a := allRoles.foldl (fun (u : State) q => u.performSeq c q) s5
          let b := a.haltCell c
          if b.hasStarted stamp then b else b.clearCell c
    s6.endAbnormal t true

/-! ### Giving up a pre-emption (R268) -/

/-- A BWAIT that goes on raises WAITERS again (R208). -/
def State.raiseWaiters (s : State) (ctx : Fin 64) (a : Nat) : State :=
  s.showFlag ctx (a + 4) (s.flagAt ctx (a + 4) + 0x00010000#32)

/-- What a bounded wait finds when it goes on after a stop: the condition is evaluated afresh, and the time goes on. -/
def State.lookAgain (s : State) (ctx : Fin 64) : Wait → Wait
  | .flag a cc r t d b e _ =>
    let v := s.flagAt ctx a.toNat
    .flag a cc r t d b e (if cond32 cc v r then some v else none)
  | .barrier a p t d e _ => .barrier a p t d e (phaseResult p (s.flagAt ctx (a.toNat + 4)))
  | .step n t d b e _ => .step n t d b e (decide (1 ≤ ((s.ctxAt ctx).applied - n).toNat) && decide (((s.ctxAt ctx).applied - n).toNat < 2 ^ 31))
  | w => w

/-- A stopped sequencer runs on: in its bounded wait, if it stood in one, else at its next instruction. -/
def State.unstop (s : State) (c : Fin 256) (q : Role) : State :=
  let y := s.seqAt c q
  if y.status != .stopped then s
  else
    match y.paused with
    | none => s.setSeq c q { y with status := .ready }
    | some w =>
      let ctx := (s.cellAt c).ctx
      let s1 := s.setSeq c q { y with status := .waiting (s.lookAgain ctx w), paused := none }
      match w with
      | .barrier a _ _ _ _ _ => s1.raiseWaiters ctx a.toNat
      | _ => s1

/-- The task runs on as if no request had been made, and the requester learns BUSY; a context switch is refused. -/
def State.abandon (s : State) (t : Task) : State :=
  let s1 := (s.setTask { t with req := none }).dropReq t.ctx t.req
  let s2 := { s1 with host := { s1.host with queues := vmap (fun (h : HQueue) => h.refuseOut t.ctx) s1.host.queues } }
  match t.cell with
  | none => s2
  | some c =>
    allRoles.foldl (fun (u : State) q => u.unstop c q) (s2.setCell c { s2.cellAt c with stopReq := false })

/-- Step 2 of R268 is over: every sequencer of the cell is stopped or has ended. -/
def Cell.allStopped (x : Cell) : Bool := x.seqs.toList.all fun (y : Seq) => y.status == .stopped || y.status == .ended

/-- A command's fault in step 3 gives up the pre-emption at once. -/
def State.abandonFor (s : State) (c : Fin 256) (stamp : Nat) : State :=
  match s.taskOf stamp with
  | some t => if t.req.isSome && (s.cellAt c).allStopped then s.abandon t else s
  | none => s

/-! ### Taking a trap and returning from one (R258 to R266) -/

/-- Counting an error: UE in bits 63:32, CE in bits 31:0, both saturating (R109). -/
def State.countUe (s : State) (i : Fin 45) : State :=
  let w := s.mem.ecc[i]
  if field w 32 32 = 2 ^ 32 - 1 then s
  else { s with mem := { s.mem with ecc := s.mem.ecc.set i (w + 0x100000000#64) } }

def State.countCe (s : State) (i : Fin 45) : State :=
  let w := s.mem.ecc[i]
  if field w 0 32 = 2 ^ 32 - 1 then s
  else { s with mem := { s.mem with ecc := s.mem.ecc.set i (w + 1#64) } }

/-- Counting an uncorrectable error and writing its event (R109, R294). -/
def State.logUe (s : State) (u : UeInfo) (scrubber : Bool) : State :=
  (s.countUe u.mem).sandglass 0x0006 0x400 (u.mem.val + (if scrubber then 2 ^ 6 else 0) + u.cellIx * 2 ^ 7) u.addr

def State.logUe? (s : State) : Option UeInfo → State
  | none => s
  | some u => s.logUe u false

/-- What a trap carries (R261), and the uncorrectable error behind it, which is logged when the trap is taken. -/
structure TrapInfo where
  code : BitVec 8
  detail : BitVec 8
  level : BitVec 2
  eval : Word
  prog : Nat
  /-- engine of a deferred fault, and the command held for its report -/
  deferred : Option (BitVec 3 × Nat)
  ue : Option UeInfo
  deriving DecidableEq, Repr

/-- A precise trap with level 0 and progress 0: `Trap(c, d, e)` of R323. -/
def trapOf (c d : BitVec 8) (e : Word) : TrapInfo := ⟨c, d, 0, e, 0, none, none⟩

/-- CAUSE as a trap writes it (R258, R261). -/
def causeWord (t : TrapInfo) : Word :=
  word (2 ^ 31 + (match t.deferred with | some e => e.1.toNat * 2 ^ 19 + 2 ^ 18 | none => 0)
    + t.level.toNat * 2 ^ 16 + t.detail.toNat * 2 ^ 8 + t.code.toNat)

/-- `DoubleFault(c)` and `Unhandled(c)` (R262): the sequencer halts, CAUSE names the trap that could not be taken, two events
record it, and the task is aborted with detail 0x02 or 0x03. -/
def State.doubleFault (s : State) (c : Fin 256) (q : Role) (t : TrapInfo) (a : Word) (detail : Nat) : State :=
  let y := s.seqAt c q
  let cw := word (t.code.toNat * 2 ^ 8 + 0x13)
  let s1 := s.setSeq c q { y with cause := cw, status := .halted, held := 0, latch := none }
  let s2 := s1.sandglass 0x0003 c.val ((roleIx q).val + cw.toNat % 2 ^ 16 * 4) a
  let s3 := s2.sandglass 0x0004 c.val (roleIx q).val t.eval
  match (s3.cellAt c).task with
  | some stamp => s3.abortTask stamp detail 0 0
  | none => s3

/-- `TakeTrap` of R261 on one sequencer, with `a` the address EPC receives. -/
def State.takeTrapAt (s : State) (c : Fin 256) (q : Role) (t : TrapInfo) (a : Word) : State :=
  let s1 := s.endWait c q
  let y := s1.seqAt c q
  if y.hnd then s1.doubleFault c q t a 0x02
  else if y.tvec = 0 then s1.doubleFault c q t a 0x03
  else
    s1.setCell c (((s1.cellAt c).setSeq q { y with
      cause := causeWord t
      epc := a
      eval := t.eval
      eprog := BitVec.ofNat 64 (t.prog % 2 ^ 32)
      pc := y.tvec
      status := if (s1.cellAt c).stopReq && y.pending.isEmpty then .stopped else .ready
      reports := t.deferred.map (·.2) :: y.reports }).progressed)

/-- A trap of the acting sequencer at its own instruction. -/
def State.takeTrap (s : State) (t : TrapInfo) : State := ((s.logUe? t.ue).dropReads (s.cell.val * 4 + (roleIx s.role).val)).takeTrapAt s.cell s.role t s.me.pc

/-- Reporting the first pending deferred fault of a sequencer (R264): the command is held until the handler returns (R266). -/
def State.reportDeferred (s : State) (c : Fin 256) (q : Role) (p : PendFault) : State :=
  let y := s.seqAt c q
  let s1 := s.setSeq c q { y with pending := y.pending.filter (fun x => x.cmd != p.cmd) }
  s1.takeTrapAt c q ⟨p.code, p.detail, p.level, p.eval, p.prog, some (p.eng, p.cmd), none⟩ y.pc

/-- LDA, LDB, LDV, VGATH, DRAIN, STV and VSCAT are resumable; MMA, CHAIN, CPY, XPOSE, NMV and COLL are not (R156, R176, R349,
R386, R402, R414, R428, R435, R256). -/
def CmdOp.resumable : CmdOp → Bool
  | .lda .. | .ldb .. | .ldv .. | .vgath .. | .drain .. | .stv .. | .vscat .. => true
  | .mma .. | .chain .. | .cpy .. | .xpose .. | .nmv .. | .coll .. => false

/-- `EretExec` of R266: a held command restarts at row EPROG, or is discarded with its gives; then HND clears and PC is EPC. -/
def State.eretExec (s : State) : State :=
  let y := s.me
  let s1 :=
    match (y.reports.head?.join).bind s.cmdOf with
    | none => s
    | some m =>
      if m.op.resumable && bitAt y.cause 18 then s.setCmd { m with state := .started, prog := y.eprog.toNat }
      else s.discardCmd m
  let x := s1.myCell
  let q := { s1.me with reports := s1.me.reports.drop 1, cause := putField y.cause 31 1 0, pc := y.epc }
  s1.setMyCell ((x.setSeq s1.role (q.settle x.stopReq false)).progressed)

/-! ### How a sequencer instruction ends -/

/-- The outcome of an instruction's own effect. -/
inductive IRes where
  /-- effects written; PC moves past the instruction -/
  | done (s : State)
  /-- effects written; control goes to the target -/
  | jump (s : State) (target : Word)
  /-- a precise trap, with no effect (R260) -/
  | trap (t : TrapInfo)
  /-- the sequencer leaves the ready set (R45) or waits for an answer; the state holds what it has taken so far -/
  | wait (s : State) (w : Wait)
  /-- the instruction stalls at issue: the sequencer stays ready and issues it again -/
  | again (s : State)
  /-- effects written, and the sequencer's own fields already set (END, ERET, TRAP, BKPT) -/
  | fixed (s : State)
  /-- an address that does not exist -/
  | stop (f : Fault)

/-- The instruction has issued, and only its result is awaited. -/
def Wait.issued : Wait → Bool
  | .pause _ | .post _ | .home .. => true
  | .tokens _ | .popQueue _ | .pushQueue .. | .fmtEmpty | .fmtFull | .engine _ | .flag .. | .barrier .. | .step .. => false

def SeqStatus.wait? : SeqStatus → Option Wait
  | .waiting w => some w
  | .idle | .ready | .ended | .halted | .stopped => none

/-- Leaving the ready set. A take that waits is judged again at the end of its cycle, after every give of it (R31). An instruction that
has issued restarts the task watchdog (R272). -/
def State.park (s : State) (w : Wait) : State :=
  let s0 := s.setMe { s.me with status := .waiting w, stall := none }
  let s1 := if w.issued then s0.setMyCell s0.myCell.progressed else s0
  match w with
  | .tokens _ => { s1 with agenda := s1.agenda ++ [.event (.sequencerWake s.cell s.role), .late s.cell s.role] }
  | _ => s1

/-- An access of the instruction at PC stalls on an inbound window: the sequencer stays ready and issues it again (R229, R381). -/
def State.noteStall (s : State) (va : Nat) : State :=
  if s.me.stall.isSome then s else s.setMe { s.me with stall := some (word va, 0) }

/-- What an instruction of `len` bytes leaves. -/
def finish (len : Nat) (s0 : State) : IRes → Outcome State Fault Refusal
  | .done s => .next (s.advance len)
  | .jump s t => .next (s.jumpTo t)
  | .trap t => .next (s0.takeTrap t)
  | .wait s w => .next (s.park w)
  | .again s => .next s
  | .fixed s => .next s
  | .stop f => .fault f

/-- Which instructions synchronise with an engine (R264). -/
inductive Sync where
  | none
  | any
  | streams (mask : BitVec 16)
  | engine (e : Eng)
  deriving DecidableEq, Repr

def engCode : Eng → BitVec 3
  | .load => 0 | .matrix => 1 | .drain => 2 | .chain => 3 | .copy => 4 | .xpose => 5 | .nmv => 6 | .coll => 7

/-- The pending fault that an instruction reports, the one whose command issued first (R264). -/
def Seq.firstFault (q : Seq) : Sync → Option PendFault
  | .none => Option.none
  | .any => q.pending.head?
  | .streams m => q.pending.find? fun p => m.getLsbD p.stream.val
  | .engine e => q.pending.find? fun p => p.eng == engCode e

/-- The order of R263 for one instruction: ILLEGAL_ROLE at decode, then a pending deferred fault, then the instruction itself. -/
def runInstr (roles : List Role) (sync : Sync) (len : Nat) (body : State → IRes) (s : State) :
    Outcome State Fault Refusal :=
  if roles.contains s.role then
    match s.me.firstFault sync with
    | some p => .next (s.reportDeferred s.cell s.role p)
    | none => finish len s (body s)
  else .next (s.takeTrap (trapOf cROLE 0 0))

/-- An instruction of every sequencer that does not synchronise and takes effect at once. -/
def plainInstr (body : State → IRes) (s : State) : Outcome State Fault Refusal :=
  runInstr allRoles .none 4 body s

end Sys2Proof.Machine
end

