-- ==== Sys2Proof/Machine/Num.lean ====
section
/-! DEFINITION. Number formats and arithmetic: decoding of every element type, rounding, conversions, BX blocks, f32 arithmetic,
the K-step sum and the atomic operations (R110 to R129, R327). All of it is exact arithmetic on naturals and integers with one rounding
at the end. -/

namespace Sys2Proof.Machine

/-! ### Exact values -/

/-- The value of an element: a NaN, an infinity, or `(-1)^neg * m * 2^e`. -/
inductive FV where
  | nan
  | inf (neg : Bool)
  | fin (neg : Bool) (m : Nat) (e : Int)
  deriving DecidableEq, Repr, Inhabited

def FV.zero : FV := .fin false 0 0

def FV.isNan : FV → Bool
  | .nan => true
  | _ => false

def FV.isInf : FV → Bool
  | .inf _ => true
  | _ => false

def FV.isZero : FV → Bool
  | .fin _ 0 _ => true
  | _ => false

/-- `Floor(log2 |x|)` of a non-zero finite value. -/
def FV.ex : FV → Int
  | .fin _ m e => (Nat.log2 m : Int) + e
  | _ => 0

def fvOfInt (i : Int) : FV := .fin (decide (i < 0)) i.natAbs 0

/-- The flags of FPFLG (R127). -/
abbrev Flg := BitVec 6

def fNX : Flg := 1
def fUF : Flg := 2
def fOF : Flg := 4
def fDZ : Flg := 8
def fNV : Flg := 16
def fRANGE : Flg := 32

/-! ### Floating formats (R112, R113) -/

/-- A floating format: widths of the fields, largest finite code, and whether it has infinities. -/
structure Fmt where
  eb : Nat
  fb : Nat
  maxCode : Nat
  hasInf : Bool
  nan : Nat
  deriving DecidableEq, Repr

def f8e4 : Fmt := ⟨4, 3, 0x7E, false, 0x7F⟩
def f8e5 : Fmt := ⟨5, 2, 0x7B, true, 0x7E⟩
def f16 : Fmt := ⟨5, 10, 0x7BFF, true, 0x7E00⟩
def bf16 : Fmt := ⟨8, 7, 0x7F7F, true, 0x7FC0⟩
def f32 : Fmt := ⟨8, 23, 0x7F7FFFFF, true, 0x7FC00000⟩

def Fmt.bias (f : Fmt) : Nat := 2 ^ (f.eb - 1) - 1

/-- Exponent of the smallest normal. -/
def Fmt.emin (f : Fmt) : Int := 1 - (f.bias : Int)

def Fmt.signBit (f : Fmt) : Nat := 2 ^ (f.eb + f.fb)

def Fmt.infCode (f : Fmt) : Nat := f.maxCode + 1

/-- The value of a code (R112). -/
def Fmt.decode (f : Fmt) (c : Nat) : FV :=
  let neg := bitsOf c (f.eb + f.fb) 1 == 1
  let mag := c % f.signBit
  let x := mag / 2 ^ f.fb
  let fr := mag % 2 ^ f.fb
  if f.maxCode < mag then (if f.hasInf && mag == f.infCode then .inf neg else .nan)
  else if x = 0 then .fin neg fr (f.emin - f.fb)
  else .fin neg (2 ^ f.fb + fr) (x + f.emin - 1 - f.fb)

/-- A code with its sign. -/
def Fmt.code (f : Fmt) (neg : Bool) (mag : Nat) : Nat := (if neg then f.signBit else 0) + mag

/-! ### Rounding (R118) -/

/-- The rounding modes, by the code of FPCTL.RM. -/
inductive RM where
  | rne | rtz | rup | rdn
  deriving DecidableEq, Repr

def rmOf (n : Nat) : RM := match n % 4 with | 0 => .rne | 1 => .rtz | 2 => .rup | _ => .rdn

/-- Whether a magnitude with kept part `k` and a remainder is raised: `cmp` compares the remainder with one half, `ex` says
that there is none. -/
def raise (rm : RM) (neg : Bool) (k : Nat) (cmp : Ordering) (ex : Bool) : Bool :=
  match rm with
  | .rne => cmp == .gt || (cmp == .eq && k % 2 == 1)
  | .rtz => false
  | .rup => !ex && !neg
  | .rdn => !ex && neg

/-- Rounding `(m + δ) * 2^e` to a multiple of `2^q`, where δ is 0, or lies strictly between 0 and 1 when `sticky` is set:
the rounded multiple and whether it is exact. -/
def roundAt (rm : RM) (neg : Bool) (m : Nat) (e : Int) (sticky : Bool) (q : Int) : Nat × Bool :=
  if q ≤ e then (m * 2 ^ (e - q).toNat, !sticky)
  else
    let sh := (q - e).toNat
    let k := m / 2 ^ sh
    let r := m % 2 ^ sh
    let half := 2 ^ (sh - 1)
    let cmp : Ordering := if r < half then .lt else if half < r || sticky then .gt else .eq
    let ex := r == 0 && !sticky
    (if raise rm neg k cmp ex then k + 1 else k, ex)

/-- `OverflowTo` of R118. -/
def overflowTo (f : Fmt) (rm : RM) (neg sat : Bool) : Nat :=
  if sat then f.code neg f.maxCode
  else if !f.hasInf then f.nan
  else
    match rm, neg with
    | .rne, _ => f.code neg f.infCode
    | .rtz, _ => f.code neg f.maxCode
    | .rup, false => f.code false f.infCode
    | .rup, true => f.code true f.maxCode
    | .rdn, false => f.code false f.maxCode
    | .rdn, true => f.code true f.infCode

/-- `RoundTo` of R118 on a finite value: the code and the flags OF, UF and NX. A sticky value is never 0. -/
def roundTo (f : Fmt) (rm : RM) (sat neg : Bool) (m : Nat) (e : Int) (sticky : Bool) : Nat × Flg :=
  if m = 0 then (f.code neg 0, if sticky then fNX ||| fUF else 0)
  else
    let l := (Nat.log2 m : Int) + e
    let q := max l f.emin - f.fb
    let r := roundAt rm neg m e sticky q
    let mag := if r.1 < 2 ^ f.fb then r.1 else ((q + f.fb - f.emin).toNat) * 2 ^ f.fb + r.1
    if f.maxCode < mag then (overflowTo f rm neg sat, fOF ||| fNX)
    else
      let u := (roundAt rm neg m e sticky (l - f.fb)).1
      let tiny := decide (l < f.emin) && !(decide (l = f.emin - 1) && u == 2 ^ (f.fb + 1))
      (f.code neg mag, if r.2 then 0 else if tiny then fNX ||| fUF else fNX)

/-- `RoundTo` of a value that may be special: a NaN gives the canonical NaN. -/
def roundFv (f : Fmt) (rm : RM) (sat : Bool) (x : FV) : Nat × Flg :=
  match x with
  | .nan => (f.nan, 0)
  | .inf neg => (if f.hasInf then f.code neg f.infCode else f.nan, 0)
  | .fin neg m e => roundTo f rm sat neg m e false

/-- `RoundF32` of R118. -/
def roundF32 (x : FV) : Nat := (roundFv f32 .rne false x).1

def f32v (c : Nat) : FV := f32.decode (c % 2 ^ 32)

/-! ### Conversions (R119 to R123) -/

/-- R120: a value to f16, bf16, f8e4 or f8e5. -/
def toFloat (f : Fmt) (sat : Bool) (x : FV) : Nat × Flg :=
  match x with
  | .nan => (f.nan, 0)
  | .inf neg =>
    if sat then (f.code neg f.maxCode, fOF ||| fNX)
    else if f.hasInf then (f.code neg f.infCode, 0)
    else (f.nan, fNV)
  | .fin neg m e => roundTo f .rne sat neg m e false

/-- Range of an integer type of width `n` (R111). -/
def intLo (n : Nat) (signed : Bool) : Int := if signed then -(2 ^ (n - 1) : Nat) else 0
def intHi (n : Nat) (signed : Bool) : Int := if signed then (2 ^ (n - 1) : Nat) - 1 else (2 ^ n : Nat) - 1

/-- An integer rounded from a finite value under `rm`, and whether it is exact. -/
def roundInt (rm : RM) (neg : Bool) (m : Nat) (e : Int) : Int × Bool :=
  let r := roundAt rm neg m e false 0
  (if neg then -(r.1 : Int) else r.1, r.2)

/-- `ToInt` of R122 to a type of width `n`. -/
def toInt (n : Nat) (signed : Bool) (rm : RM) (x : FV) : Int × Flg :=
  match x with
  | .nan => (0, fNV)
  | .inf neg => (if neg then intLo n signed else intHi n signed, fNV)
  | .fin neg m e =>
    let r := roundInt rm neg m e
    if r.1 < intLo n signed then (intLo n signed, fNV)
    else if intHi n signed < r.1 then (intHi n signed, fNV)
    else (r.1, if r.2 then 0 else fNX)

/-! ### Element types (R110) -/

/-- Width in bits of an element of types 0 to 12. -/
def tyBits (ty : Nat) : Nat :=
  match ty with
  | 0 | 1 => 4
  | 2 | 3 | 8 | 9 => 8
  | 4 | 5 | 10 | 11 => 16
  | _ => 32

def tyIsInt (ty : Nat) : Bool := decide (ty < 8)
def tySigned (ty : Nat) : Bool := ty % 2 == 0
def tyIsBx (ty : Nat) : Bool := decide (13 ≤ ty)
def tyIsF32 (ty : Nat) : Bool := ty == 12

/-- The floating format of types 8 to 12. -/
def tyFmt (ty : Nat) : Fmt :=
  match ty with
  | 8 => f8e4 | 9 => f8e5 | 10 => f16 | 11 => bf16 | _ => f32

/-- Mantissa bits and bytes of a BX type (R114). -/
def bxM (ty : Nat) : Nat := match ty with | 13 => 2 | 14 => 4 | _ => 7
def bxBytes (ty : Nat) : Nat := match ty with | 13 => 8 | 14 => 12 | _ => 18

/-- The integer that an element of types 0 to 7 holds (R111). -/
def intElem (ty c : Nat) : Int :=
  if tySigned ty then sextNat (tyBits ty) c else (c % 2 ^ tyBits ty : Nat)

/-- The value of an element of types 0 to 12 from its bits. -/
def elemVal (ty c : Nat) : FV :=
  if tyIsInt ty then fvOfInt (intElem ty c) else (tyFmt ty).decode (c % 2 ^ tyBits ty)

/-- An integer as an element of width `n`, modulo 2^n. -/
def intBits (n : Nat) (i : Int) : Nat := (i % (2 ^ n : Nat)).toNat

/-- `ToF32` of R123. -/
def toF32 (x : FV) : Nat × Flg := roundFv f32 .rne false x

/-! ### BX blocks (R114, R115, R121) -/

/-- Element `e` of a block of `m` mantissa bits. -/
def bxDecode (blk m e : Nat) : FV :=
  let x := bitsOf blk 0 8
  let base := 8 + e / 4 * (4 * m + 6)
  let sg := bitsOf blk base 2
  let lo := base + 2 + e % 4 * (m + 1)
  let s := bitsOf blk lo 1
  let mm := bitsOf blk (lo + 1) m
  if x = 0xFF then .nan
  else if mm = 0 then .zero
  else .fin (s == 1) mm ((x : Int) - 127 - sg - m + 1)

/-- `|x| < 2^k` for a value that is not a NaN. -/
def FV.below (x : FV) (k : Int) : Bool :=
  match x with
  | .nan | .inf _ => false
  | .fin _ 0 _ => true
  | .fin _ m e => decide ((Nat.log2 m : Int) + e < k)

/-- Rounding a magnitude times `2^k` to the nearest integer, ties to even. -/
def rneScaled (m : Nat) (e k : Int) : Nat := (roundAt .rne false m (e + k) false 0).1

/-- One element of a block: M, sign and flags. -/
def bxElem (m : Nat) (ee sg : Int) (x : FV) : Nat × Bool × Flg :=
  let top := 2 ^ m - 1
  match x with
  | .nan => (0, false, 0)
  | .inf neg => (top, neg, fOF ||| fNX)
  | .fin neg mm e =>
    let k := (m : Int) - 1 - ee + 127 + sg
    let r := roundAt .rne false mm (e + k) false 0
    let mq := min r.1 top
    (mq, neg && mq != 0, (if top < r.1 then fOF ||| fNX else 0) ||| (if r.2 then 0 else fNX))

/-- The shared exponent of a block. -/
def bxExp (xs : List FV) : Nat :=
  let es := xs.filterMap fun x =>
    match x with
    | .inf _ => some (128 : Int)
    | .fin _ 0 _ => none
    | .fin _ m e => some ((Nat.log2 m : Int) + e)
    | .nan => none
  match es with
  | [] => 0
  | e :: t => (clampInt (t.foldl max e + 127) 0 254).toNat

/-- The shift of a group. -/
def bxShift (ee : Nat) (grp : List FV) : Nat :=
  match [3, 2, 1].find? fun t => grp.all fun x => x.below ((ee : Int) - 126 - (t : Nat)) with
  | some t => t
  | none => 0

/-- What an element of a block with a NaN reports: it decodes as NaN, which differs from every input but a NaN (R121). -/
def bxLost : FV → Flg
  | .nan => 0
  | .inf _ => fOF ||| fNX
  | .fin .. => fNX

/-- `ToBX` of R121 on sixteen values: the block as a number, and the flags. -/
def toBx (m : Nat) (xs : List FV) : Nat × Flg :=
  if xs.any FV.isNan then (0xFF, xs.foldl (fun a x => a ||| bxLost x) 0)
  else
    let ee := bxExp xs
    let groups := (List.range 4).map fun g =>
      let grp := (xs.drop (4 * g)).take 4
      let sg := bxShift ee grp
      let els := grp.map (bxElem m ee sg)
      let bits := els.zipIdx.foldl (fun a x =>
        a + ((if x.1.2.1 then 1 else 0) + x.1.1 * 2) * 2 ^ (2 + x.2 * (m + 1))) sg
      (bits, els.foldl (fun a x => a ||| x.2.2) (0 : Flg))
    (groups.zipIdx.foldl (fun a g => a + g.1.1 * 2 ^ (8 + g.2 * (4 * m + 6))) ee,
      groups.foldl (fun a g => a ||| g.2) (0 : Flg))

/-- `Convert` of R123 of one value to types 0 to 12: bits and flags. -/
def convertTo (ty : Nat) (sat : Bool) (rm : RM) (x : FV) : Nat × Flg :=
  if tyIsInt ty then
    let r := toInt (tyBits ty) (tySigned ty) rm x
    (intBits (tyBits ty) r.1, r.2)
  else if ty = 12 then roundFv f32 rm false x
  else toFloat (tyFmt ty) sat x

/-- A conversion to a wider type: an infinity, which only a narrower floating type can hold, stays one (R119). -/
def widenTo (ty : Nat) (sat : Bool) (rm : RM) (x : FV) : Nat × Flg := convertTo ty (sat && !x.isInf) rm x

/-! ### f32 arithmetic (R118, R126 to R129) -/

/-- `FPCTL` as an instruction samples it. -/
structure FpCtl where
  rm : RM
  ftz : Bool
  deriving DecidableEq, Repr

def fpCtlOf (w : BitVec 3) : FpCtl := ⟨rmOf (w.toNat % 4), w.getLsbD 2⟩

def FpCtl.plain : FpCtl := ⟨.rne, false⟩

/-- FTZ on an operand: a subnormal reads as zero of its sign. -/
def ftzCode (on : Bool) (c : Nat) : Nat :=
  if on && bitsOf c 23 8 == 0 then c / 2 ^ 31 % 2 * 2 ^ 31 else c

/-- FTZ on a result: a subnormal is written as zero of its sign, and reports UF and NX. -/
def ftzResult (on : Bool) (r : Nat × Flg) : Nat × Flg :=
  if on && bitsOf r.1 23 8 == 0 && bitsOf r.1 0 23 != 0 then (r.1 / 2 ^ 31 % 2 * 2 ^ 31, r.2 ||| fUF ||| fNX) else r

def nan32 : Nat := 0x7FC00000

/-- The exact sum of two finite values as a signed multiple of a power of two. -/
def sumFin (n1 : Bool) (m1 : Nat) (e1 : Int) (n2 : Bool) (m2 : Nat) (e2 : Int) : Int × Int :=
  let e := min e1 e2
  let a : Int := (m1 * 2 ^ (e1 - e).toNat : Nat)
  let b : Int := (m2 * 2 ^ (e2 - e).toNat : Nat)
  ((if n1 then -a else a) + (if n2 then -b else b), e)

/-- The exact sum, with the sign of an exact zero under `rm` (R118, which gives it for non-zero terms). DESIGN CHOICE (log entry 38): of two
zero terms, one sign is kept and two signs give the zero that `rm` gives non-zero terms. -/
def addFv (rm : RM) (x y : FV) : FV × Flg :=
  match x, y with
  | .nan, _ => (.nan, 0)
  | _, .nan => (.nan, 0)
  | .inf a, .inf b => if a == b then (.inf a, 0) else (.nan, fNV)
  | .inf a, _ => (.inf a, 0)
  | _, .inf b => (.inf b, 0)
  | .fin n1 m1 e1, .fin n2 m2 e2 =>
    let r := sumFin n1 m1 e1 n2 m2 e2
    if r.1 = 0 then
      (.fin (if n1 == n2 && m1 == 0 then n1 else rm == .rdn) 0 0, 0)
    else (.fin (decide (r.1 < 0)) r.1.natAbs r.2, 0)

def negFv : FV → FV
  | .nan => .nan
  | .inf n => .inf !n
  | .fin n m e => .fin (!n) m e

/-- The exact product. DESIGN CHOICE (log entry 38): a zero product has the exclusive or of the signs. -/
def mulFv (x y : FV) : FV × Flg :=
  match x, y with
  | .nan, _ => (.nan, 0)
  | _, .nan => (.nan, 0)
  | .inf a, .inf b => (.inf (a != b), 0)
  | .inf a, .fin b m _ => if m = 0 then (.nan, fNV) else (.inf (a != b), 0)
  | .fin a m _, .inf b => if m = 0 then (.nan, fNV) else (.inf (a != b), 0)
  | .fin n1 m1 e1, .fin n2 m2 e2 => (.fin (n1 != n2) (m1 * m2) (e1 + e2), 0)

/-- Rounding an exact result with its own flags, under FPCTL. -/
def close32 (k : FpCtl) (r : FV × Flg) : Nat × Flg :=
  let q := roundFv f32 k.rm false r.1
  ftzResult k.ftz (q.1, q.2 ||| r.2)

def add32 (k : FpCtl) (x y : Nat) : Nat × Flg :=
  close32 k (addFv k.rm (f32v (ftzCode k.ftz x)) (f32v (ftzCode k.ftz y)))

def neg32 (x : Nat) : Nat := if x / 2 ^ 31 % 2 = 1 then x % 2 ^ 31 else x % 2 ^ 31 + 2 ^ 31

def isNan32 (x : Nat) : Bool := (f32v x).isNan

def sub32 (k : FpCtl) (x y : Nat) : Nat × Flg :=
  close32 k (addFv k.rm (f32v (ftzCode k.ftz x)) (negFv (f32v (ftzCode k.ftz y))))

def mul32 (k : FpCtl) (x y : Nat) : Nat × Flg :=
  close32 k (mulFv (f32v (ftzCode k.ftz x)) (f32v (ftzCode k.ftz y)))

/-- `a * b + c` with one rounding (R128). -/
def fma32 (k : FpCtl) (a b c : Nat) : Nat × Flg :=
  let p := mulFv (f32v (ftzCode k.ftz a)) (f32v (ftzCode k.ftz b))
  let q := addFv k.rm p.1 (f32v (ftzCode k.ftz c))
  close32 k (q.1, p.2 ||| q.2)

/-- The order of two values that are not NaN, −0 below +0. -/
def ltFv (x y : FV) : Bool :=
  match x, y with
  | .inf a, .inf b => a && !b
  | .inf a, _ => a
  | _, .inf b => !b
  | .fin n1 m1 e1, .fin n2 m2 e2 =>
    let d := (sumFin n1 m1 e1 (!n2) m2 e2).1
    if d = 0 then m1 == 0 && m2 == 0 && n1 && !n2 else decide (d < 0)
  | _, _ => false

/-- The numeric order used by comparisons, where −0 equals +0. -/
def cmpFv (x y : FV) : Ordering :=
  match x, y with
  | .inf a, .inf b => if a == b then .eq else if a then .lt else .gt
  | .inf a, _ => if a then .lt else .gt
  | _, .inf b => if b then .gt else .lt
  | .fin n1 m1 e1, .fin n2 m2 e2 =>
    let d := (sumFin n1 m1 e1 (!n2) m2 e2).1
    if d = 0 then .eq else if d < 0 then .lt else .gt
  | _, _ => .eq

/-- VMIN and VMAX of two f32 codes (R128): the other operand when exactly one is NaN. -/
def min32 (ftz : Bool) (x y : Nat) : Nat :=
  let a := ftzCode ftz x
  let b := ftzCode ftz y
  if isNan32 a then (if isNan32 b then nan32 else b)
  else if isNan32 b then a
  else if ltFv (f32v b) (f32v a) then b else a

def max32 (ftz : Bool) (x y : Nat) : Nat :=
  let a := ftzCode ftz x
  let b := ftzCode ftz y
  if isNan32 a then (if isNan32 b then nan32 else b)
  else if isNan32 b then a
  else if ltFv (f32v a) (f32v b) then b else a

/-! ### The K-step sum (R124, R125) -/

/-- The exact product of two operand elements. -/
def prodFv (a b : FV) : FV := (mulFv a b).1

/-- A product truncated toward zero to a multiple of `2^q`, in units of `2^q`. -/
def truncAt (q : Int) (x : FV) : Int :=
  match x with
  | .fin n m e =>
    let t : Int := if q ≤ e then (m * 2 ^ (e - q).toNat : Nat) else (m / 2 ^ (q - e).toNat : Nat)
    if n then -t else t
  | _ => 0

/-- `KStep` of R124 with the special cases of R125: `scale` is fw[39:32] as a signed number, `neg` is fw[16], `zero` is `.z`. -/
def kStep (acc : Nat) (ps : List FV) (scale : Int) (neg zero : Bool) : Nat :=
  let av := f32v acc
  if (!zero && av.isNan) || ps.any FV.isNan then nan32
  else
    let pos := ps.any (· == .inf false)
    let mns := ps.any (· == .inf true)
    if pos && mns then nan32
    else if pos || mns then
      let sg := mns != neg
      if !zero && av == .inf (!sg) then nan32 else f32.code sg f32.infCode
    else if !zero && av.isInf then acc
    else
      let nz := ps.filter fun p => !p.isZero
      match nz with
      | [] => if zero then 0 else acc
      | p :: rest =>
        let q : Int := (rest.foldl (fun a x => max a x.ex) p.ex) - 47
        let t := nz.foldl (fun a x => a + truncAt q x) (0 : Int)
        let t1 := if neg then -t else t
        if zero then
          (if t1 = 0 then 0 else roundF32 (.fin (decide (t1 < 0)) t1.natAbs (q + scale)))
        else if t1 = 0 then acc
        else roundF32 (addFv .rne av (.fin (decide (t1 < 0)) t1.natAbs (q + scale))).1

/-! ### Atomic operations (R327) -/

/-- `AtomicOp` on the `n`-bit numbers `x` in memory and `y`. -/
def atomicOp (op : AtOp) (x y n : Nat) : Nat :=
  match op with
  | .swap => y % 2 ^ n
  | .add => (x + y) % 2 ^ n
  | .and => x &&& y
  | .or => x ||| y
  | .xor => x ^^^ y
  | .min => if sextNat n x ≤ sextNat n y then x else y
  | .max => if sextNat n y ≤ sextNat n x then x else y
  | .minn => if x ≤ y then x else y
  | .maxn => if y ≤ x then x else y
  | .fadd => (add32 .plain x y).1
  | .fmin => min32 false x y
  | .fmax => max32 false x y

/-! ### Elements in bytes -/

/-- Element `i` of a number that holds elements of `n` bits, element 0 lowest (R111). -/
def elemOf (n x i : Nat) : Nat := bitsOf x (n * i) n

/-- A number made of elements of `n` bits. -/
def packElems (n : Nat) : List Nat → Nat
  | [] => 0
  | x :: xs => x % 2 ^ n + 2 ^ n * packElems n xs

end Sys2Proof.Machine
end

