-- ==== Sys2Proof/Machine/Flags.lean ====
section
/-! DEFINITION. Conditions on values (R300, R324) and the sticky flags of FPFLG (R127, R129). -/

namespace Sys2Proof.Machine

/-- `CondHolds` of R324 on 64-bit values. -/
def condHolds (cc : Cond) (x y : Word) : Bool :=
  match cc with
  | .eq => x == y
  | .ne => x != y
  | .lt => decide (x.toInt < y.toInt)
  | .ge => decide (y.toInt ≤ x.toInt)
  | .ltn => decide (x.toNat < y.toNat)
  | .gen => decide (y.toNat ≤ x.toNat)

/-- A condition on two elements of `n` bits (R425). -/
def condElem (cc : Cond) (n x y : Nat) : Bool :=
  match cc with
  | .eq => x == y
  | .ne => x != y
  | .lt => decide (sextNat n x < sextNat n y)
  | .ge => decide (sextNat n y ≤ sextNat n x)
  | .ltn => decide (x < y)
  | .gen => decide (y ≤ x)

/-- The IEEE 754 comparisons of R425 on f32 codes, codes 0 to 3. -/
def condF32 (cc : Cond) (ftz : Bool) (x y : Nat) : Bool :=
  let a := ftzCode ftz x
  let b := ftzCode ftz y
  if isNan32 a || isNan32 b then cc == .ne
  else
    let o := cmpFv (f32v a) (f32v b)
    match cc with
    | .eq => o == .eq
    | .ne => o != .eq
    | .lt => o == .lt
    | .ge => o != .lt
    | .ltn => false
    | .gen => false

/-- 1 when a condition holds, 0 otherwise. -/
def boolWord (b : Bool) : Word := if b then 1 else 0

/-- ORing reported flags into FPFLG of a cell (R127). -/
def State.reportFlags (s : State) (c : Fin 256) (f : Flg) : State :=
  let x := s.cellAt c
  s.setCell c { x with fpflg := x.fpflg ||| f }

/-- FPCTL as an instruction of the acting cell samples it (R129). -/
def State.fpCtl (s : State) : FpCtl := fpCtlOf s.myCell.fpctl

/-- An earlier CHAIN of the cell that has not completed: an access to FPFLG waits for it (R129). -/
def State.chainBusy (s : State) (c : Fin 256) : Bool := s.cmds.any fun m => m.eng == .chain && m.unit == c.val && m.state != .faulted

end Sys2Proof.Machine
end

