-- ==== Sys2Proof/Machine/Xlat.lean ====
section
/-! DEFINITION. Address translation and the checks of every access, in the order of R96: footprint, window share or walk,
permissions, key, inbound-window stall, data. -/

namespace Sys2Proof.Machine

/-! ### What an access asks, where it lands, and what can come of it -/

/-- The kinds of access of R97. -/
inductive AccKind where
  | read | write | atomic | red | fetch
  deriving DecidableEq, Repr

/-- A fault of an access (R96, R98). -/
structure AccFault where
  code : BitVec 8
  detail : BitVec 8
  level : BitVec 2
  eval : Word
  ue : Option UeInfo
  deriving DecidableEq, Repr

def accFault (c d : BitVec 8) (va : Nat) : AccFault := ⟨c, d, 0, word va, none⟩

/-- The precise trap for the fault of a sequencer's access. -/
def AccFault.trap (f : AccFault) : TrapInfo := ⟨f.code, f.detail, f.level, f.eval, 0, none, f.ue⟩

/-- The outcome of an access: a value, a fault, a stall on an inbound window (R229), an answer of a peer still awaited, or an
address that does not exist. -/
inductive XR (α : Type) where
  | ok (s : State) (a : α)
  | fault (f : AccFault)
  | stall (va : Nat)
  | pend (s : State)
  | stop (pa : Nat)

def XR.bind {α β : Type} (x : XR α) (f : State → α → XR β) : XR β :=
  match x with
  | .ok s a => f s a
  | .fault e => .fault e
  | .stall va => .stall va
  | .pend s => .pend s
  | .stop pa => .stop pa

/-- Who makes an access: its context, the cell whose caches and stack area it uses, the boxes it is checked against (none: no
footprint applies), the agent id and stream of R215, and the step it belongs to (R213). `seqStream` is the stream of a
sequencer's own access, before which its earlier stores are performed (R184). -/
structure Agent where
  ctx : Fin 64
  cell : Option (Fin 256)
  foot : Option (List TaskBox)
  agent : Nat
  stream : Nat
  step : BitVec 32
  seqStream : Option (Fin 16)
  /-- the owner of its reads of peers: a sequencer by 4 × cell + SEQ, a command by 4,096 + its number, a run by 2^40 + its number -/
  reader : Nat

/-- Agent id of a sequencer's accesses in a stream, and of an engine task (R215). -/
def seqAgentId (c : Fin 256) (q : Role) (st : Nat) : Nat := c.val * 64 + (roleIx q).val * 16 + st

def taskAgentId (die : Nat) (k : TaskKind) : Nat :=
  16384 + die * 64 + (match k with | .cell => 0 | .copy => 0 | .xpose => 16 | .nmv => 32 | .coll => 48)

/-- The acting sequencer's own accesses in stream `st`. -/
def State.seqAgent (s : State) (st : Fin 16) : Agent :=
  ⟨s.ctxIx, some s.cell, some s.myCell.boxes, seqAgentId s.cell s.role st.val, st.val, s.myCtx.step, some st,
    s.cell.val * 4 + (roleIx s.role).val⟩

/-- The accesses of an engine command (R213, R215). -/
def State.cmdAgent (_s : State) (m : Cmd) : Agent :=
  match m.owner with
  | .seq c q => ⟨m.ctx, some c, some m.boxes, seqAgentId c q m.stream.val, m.stream.val, m.step, none, 4096 + m.id⟩
  | .task _ =>
    let k : TaskKind := match m.eng with | .xpose => .xpose | .nmv => .nmv | .coll => .coll | _ => .copy
    ⟨m.ctx, none, some m.boxes, taskAgentId m.unit k, 0, m.step, none, 4096 + m.id⟩

/-- Where the bytes of one piece of an access lie. -/
inductive Loc where
  /-- local or host memory: key of the first byte, key material, whether the leaf has POL 1 -/
  | mem (key mat : Nat) (pol1 : Bool)
  /-- the device at a rank: APER 3, and whether the remote-line cache may hold it (R105) -/
  | peer (rank : Nat) (host cached : Bool)
  deriving DecidableEq, Repr

/-- One piece of an access: an address, a length that stays within one 64 KiB granule, and where it lies. -/
structure Seg where
  va : Nat
  len : Nat
  loc : Loc
  deriving DecidableEq, Repr

def Loc.isPeer : Loc → Bool
  | .peer .. => true
  | .mem .. => false

/-! ### Keys and errors -/

/-- A key slot is usable by a context (R103). -/
def State.keyUsable (s : State) (ctx : Fin 64) (slot : Nat) : Bool :=
  slot == 0 || (let e := smGet (0, 0) slot s.mem.keys; e.1 != 0 && (e.2 == 64 || e.2 == ctx.val))

/-- The material of a slot, 0 for the clear slot (R103). -/
def State.keyMat (s : State) (slot : Nat) : Nat := if slot = 0 then 0 else (smGet (0, 0) slot s.mem.keys).1

/-- A byte read under key material `m`: a line written under another key decrypts to wrong bytes (R104). -/
def State.readUnder (s : State) (k m : Nat) : Byte :=
  if s.tagOf k = m then s.lineByte k else Config.wrongKeyByte (s.tagOf k) (s.lineBytes k) m k

/-- The memory that a key lies in, by its id of R109, if errors are counted there: HBM stack, vault or scheduler memory. -/
def memIdOf (k : Nat) : Option (Fin 45) :=
  if k < 2 ^ 40 then some (Fin.ofNat 45 (0x20 + k / 4096 % 8))
  else if k < 2 ^ 41 then some (Fin.ofNat 45 ((k - 2 ^ 40) / 2 ^ 26 % 16))
  else if k < 2 ^ 42 then some 0x2B
  else none

/-- The address that the ECC_UE event of a granule carries (R294). -/
def ueAddr (k : Nat) : Word :=
  if k < 2 ^ 40 then word (k / 8 * 8)
  else if k < 2 ^ 41 then word ((k - 2 ^ 40) % 2 ^ 26 / 8 * 8)
  else word ((k - 2 ^ 41) / 8 * 8)

def ueOf (k : Nat) : Option UeInfo := (memIdOf k).map fun i => ⟨i, 0, ueAddr k⟩

/-- The granule of a key holds a double-bit error. Host memory has none of its own here. -/
def State.isBad (s : State) (k : Nat) : Bool := decide (k < 2 ^ 42) && s.mem.bad.contains (k / 8)

/-- Counting a correction in the memory that holds granule `g` (R109). -/
def State.countCeAt (s : State) (g : Nat) : State :=
  match memIdOf (g * 8) with
  | some i => s.countCe i
  | none => s

/-- A reader corrects single-bit errors and writes the corrected words back (R106), which counts (R109). -/
def State.correct (s : State) (keys : List Nat) : State :=
  let hit := s.mem.soft.filter fun g => keys.any fun k => k / 8 == g
  if hit.isEmpty then s
  else
    let s1 := { s with mem := { s.mem with soft := s.mem.soft.filter fun g => !hit.contains g } }
    hit.foldl State.countCeAt s1

/-- Correcting the single-bit errors of columns [lo, lo + n) of a cell's accumulator row as they are read (R106, R109). -/
def State.correctCols (s : State) (c : Fin 256) (row lo n : Nat) : State :=
  let a := (c.val * 2048 + row) * 256 + lo
  let hit := s.mem.softAcc.filter fun k => decide (a ≤ k) && decide (k < a + n)
  if hit.isEmpty then s
  else
    let s1 := { s with mem := { s.mem with softAcc := s.mem.softAcc.filter fun k => !hit.contains k } }
    hit.foldl (fun (t : State) _ => t.countCe (Fin.ofNat 45 (0x10 + (clusterOf c).val))) s1

/-! ### Leaves and walks (R91 to R94) -/

def leafKey (e : Nat) : Nat := bitsOf e 52 10
def leafPfn (e : Nat) : Nat := bitsOf e 16 36
def leafPeer (e : Nat) : Nat := bitsOf e 16 12
def leafPol (e : Nat) : Nat := bitsOf e 9 2
def leafAper (e : Nat) : Nat := bitsOf e 2 2
def leafBit (e i : Nat) : Bool := bitsOf e i 1 == 1

/-- Index bits of a level (R91). -/
def levelShift : Nat → Nat
  | 0 => 55 | 1 => 42 | 2 => 29 | _ => 16

def levelIndex (va l : Nat) : Nat := bitsOf va (levelShift l) (if l = 0 then 9 else 13)

/-- A malformed entry with V = 1 at a level (R92, R93). -/
def malformed (e l : Nat) : Bool :=
  if bitsOf e 1 1 = 0 then
    l == 3 || bitsOf e 52 12 != 0 || bitsOf e 2 14 != 0 || decide (2 ^ 39 ≤ leafPfn e * 2 ^ 16)
  else
    l == 0 || bitsOf e 62 2 != 0 || bitsOf e 11 5 != 0 ||
    (leafAper e != 0 && leafKey e != 0) ||
    (leafAper e % 2 == 1 && bitsOf e 28 24 != 0) ||
    (leafAper e % 2 == 0 && l == 1 && bitsOf e 16 26 != 0) ||
    (leafAper e % 2 == 0 && l == 2 && bitsOf e 16 13 != 0) ||
    leafPol e == 3 || (leafPol e == 1 && leafAper e != 0) ||
    (leafAper e == 0 && decide (2 ^ 39 ≤ leafPfn e * 2 ^ 16))

/-- The eight bytes of a table entry under key material `m`. -/
def State.entryAt (s : State) (m a : Nat) : Nat := natOf ((List.range 8).map fun i => s.readUnder (a + i) m)

/-- A walk through the levels that remain, from one table: the leaf with its level, or the fault that ended it, and the addresses of the
entries it read (R93, R107). -/
def State.walkLevels (s : State) (m va : Nat) : List Nat → Nat → List Nat → Except (AccFault × List Nat) (Nat × Nat × List Nat)
  | [], _, seen => .error (accFault cPAGE 0x02 va, seen)
  | l :: ls, table, seen =>
    let a := table + 8 * levelIndex va l
    if s.isBad a then .error (⟨cUNCORR, 0x02, BitVec.ofNat 2 l, word va, ueOf a⟩, seen)
    else
      let e := s.entryAt m a
      if e % 2 = 0 then .error (⟨cPAGE, 0x01, BitVec.ofNat 2 l, word va, none⟩, a :: seen)
      else if malformed e l then .error (⟨cPAGE, 0x02, BitVec.ofNat 2 l, word va, none⟩, a :: seen)
      else if bitsOf e 1 1 = 1 then .ok (l, e, a :: seen)
      else s.walkLevels m va ls (leafPfn e * 2 ^ 16) (a :: seen)

/-- A whole walk under the word of ROOT and EN and the TKEY that it took: EN, the key check of TKEY before any table is read (R96), ROOT
(R93), then the four levels. DESIGN CHOICE (log entry 40): where TKEY is not usable and ROOT addresses 512 GiB or beyond, both before any
table is read, the key fault is the one reported. -/
def State.walk (s : State) (ctx : Fin 64) (root : Word) (tkey va : Nat) : Except (AccFault × List Nat) (Nat × Nat × List Nat) :=
  if !bitAt root 0 then .error (accFault cPAGE 0x01 va, [])
  else if !s.keyUsable ctx tkey then .error (accFault cACCESS 0x06 va, [])
  else
    let r := field root 16 36 * 2 ^ 16
    if 2 ^ 39 ≤ r then .error (accFault cPAGE 0x02 va, [])
    else s.walkLevels (s.keyMat tkey) va [0, 1, 2, 3] r []

/-- The cached form of a leaf (R99). -/
def tlbEntry (ctx : Fin 64) (va level e : Nat) : TlbEntry :=
  ⟨ctx, va / 2 ^ levelShift level * 2 ^ levelShift level, 2 ^ levelShift level, level, word e⟩

def TlbEntry.holds (t : TlbEntry) (ctx : Fin 64) (va : Nat) : Bool :=
  t.ctx == ctx && decide (t.va ≤ va) && decide (va < t.va + t.size)

/-- Filling a cache of `n` entries; the oldest entry goes (log entry 5). -/
def fillCache (n : Nat) (l : List TlbEntry) (t : TlbEntry) : List TlbEntry :=
  keepLast n (l ++ [t])

def State.fillMicro (s : State) (c : Fin 256) (t : TlbEntry) : State :=
  { s with mem := { s.mem with micro := s.mem.micro.set c (fillCache 64 s.mem.micro[c] t) } }

def State.fillCluster (s : State) (k : Fin 16) (t : TlbEntry) : State :=
  { s with mem := { s.mem with cluster := s.mem.cluster.set k (fillCache 4096 s.mem.cluster[k] t) } }

/-- The walk of a granule that an access of the agent already waits on, in one of its two states. -/
def State.walkFor (s : State) (w : Agent) (va : Nat) (ended : Bool) : Option Walk :=
  s.mem.walks.find? fun k => k.ctx == w.ctx && k.granule == va / 65536 && k.ended.isSome == ended &&
    (!ended || k.waiters.contains (w.cell, w.reader))

def Walk.join (k : Walk) (id : Nat) (x : Option (Fin 256) × Nat) : Walk :=
  if k.id == id && !k.waiters.contains x then { k with waiters := k.waiters ++ [x] } else k

/-- A miss: the fault or the leaf of the walk that served the access, else it joins the granule's walk or takes a new one (R100). -/
def State.awaitWalk (s : State) (w : Agent) (va : Nat) : XR (Nat × Nat) :=
  match (s.walkFor w va true).bind (·.ended) with
  | some (.fault f) => .fault ⟨f.code, f.detail, f.level, word va, f.ue⟩
  | some (.leaf t) => .ok s (t.level, t.leaf.toNat)
  | none =>
    match s.walkFor w va false with
    | some k => .pend { s with mem := { s.mem with walks := s.mem.walks.map fun x => x.join k.id (w.cell, w.reader) } }
    | none =>
      .pend (s.bump.startWalks (s.mem.walks ++ [⟨s.clk.nextId, w.ctx, va / 65536, [(w.cell, w.reader)], none, none⟩]))

/-- The leaf of an address: micro cache, cluster cache, then a walk (R99, R100). An agent outside the cells, such as an engine of a die,
the post sequencer or the unit that serves peers, has no cache of its own and takes the leaf from its walk. -/
def State.leafOf (s : State) (w : Agent) (va : Nat) : XR (Nat × Nat) :=
  match w.cell with
  | none => s.awaitWalk w va
  | some c =>
    match s.mem.micro[c].find? (·.holds w.ctx va) with
    | some t => .ok s (t.level, t.leaf.toNat)
    | none =>
      match s.mem.cluster[clusterOf c].find? (·.holds w.ctx va) with
      | some t => .ok (s.fillMicro c t) (t.level, t.leaf.toNat)
      | none => s.awaitWalk w va

/-- Filling the caches of the cells that wait on a walk (R100). -/
def State.fillFor (s : State) (k : Walk) (t : TlbEntry) : State :=
  (k.waiters.filterMap (·.1)).foldl (fun (u : State) c =>
    let v := u.fillMicro c t
    if v.mem.cluster[clusterOf c].contains t then v else v.fillCluster (clusterOf c) t) s

def Walk.faulted (k : Walk) (id : Nat) (f : WalkFault) : Walk := if k.id == id then { k with ended := some (.fault f) } else k

/-- A walk that reached a leaf is over for the waiters whose caches it fills; the others still have to take the leaf. -/
def Walk.arrived (k : Walk) (id : Nat) (t : TlbEntry) : Option Walk :=
  if k.id == id then
    let rest := k.waiters.filter (·.1.isNone)
    if rest.isEmpty then none else some { k with waiters := rest, ended := some (.leaf t) }
  else some k

/-- A walk that holds a walker finishes under the registers it took: it fills the caches, or faults its waiters, corrects the single-bit
errors of the entries it read (R106), and hands its walker on (R86, R93, R100). -/
def State.finishWalk (s : State) (k : Walk) : State :=
  let x := s.ctxAt k.ctx
  match s.walk k.ctx ((k.regs.map (·.1)).getD x.root) ((k.regs.map (·.2)).getD x.tkey) (k.granule * 65536) with
  | .error f =>
    let s1 := s.startWalks (s.mem.walks.map fun w => w.faulted k.id ⟨f.1.code, f.1.detail, f.1.level, f.1.ue⟩)
    s1.correct f.2
  | .ok r =>
    let t := tlbEntry k.ctx (k.granule * 65536) r.1 r.2.1
    let s1 := s.startWalks (s.mem.walks.filterMap fun w => w.arrived k.id t)
    (s1.correct r.2.2).fillFor k t

/-- The permission that an access needs (R97): the cause and detail where it lacks it. DESIGN CHOICE (log entry 40): the details 0x01 and
0x02, which the spec states for APER 0, stand for a missing PR or PW under APER 1 to 3 as well. -/
def permFault (k : AccKind) (e : Nat) : Option (BitVec 8 × BitVec 8) :=
  let a := leafAper e
  match k with
  | .read => if leafBit e 4 then none else some (cACCESS, 0x01)
  | .write => if leafBit e 5 then none else some (cACCESS, 0x02)
  | .atomic => if a != 0 then some (cACCESS, 0x05) else if leafBit e 7 then none else some (cACCESS, 0x04)
  | .red =>
    if a == 0 then (if leafBit e 7 then none else some (cACCESS, 0x04))
    else if a == 1 then (if leafBit e 8 then none else some (cREMOTE, 0))
    else some (cACCESS, 0x05)
  | .fetch => if a != 0 then some (cACCESS, 0x03) else if leafBit e 6 then none else some (cACCESS, 0x03)

/-- The address lies in the context's vault window (R87). -/
def Ctx.inWindow (x : Ctx) (va : Nat) : Bool :=
  x.vlimit != 0 && decide (x.vbase.toNat ≤ va) && decide (va < x.vbase.toNat + 2 ^ 30)

/-- `VaultDecode` of R87: the key of the byte, or none beyond the share. -/
def Ctx.vaultDecode (x : Ctx) (va : Nat) : Option Nat :=
  let off := va - x.vbase.toNat
  let v := bitsOf off 26 4
  let o := bitsOf off 0 26
  if x.vlimit * 2 ^ 20 ≤ o then none else some (vaultKey v (x.vslot * 2 ^ 20 + o))

/-- Steps 3 to 5 of R96 for one piece of an access. -/
def State.translate (s : State) (w : Agent) (k : AccKind) (va : Nat) : XR Loc :=
  let x := s.ctxAt w.ctx
  if inAperture va then .fault (accFault cACCESS 0x0B va)
  else if x.inWindow va then
    if k == .fetch then .fault (accFault cACCESS 0x03 va)
    else
      match x.vaultDecode va with
      | none => .fault (accFault cACCESS 0x07 va)
      | some key => .ok s (.mem key 0 false)
  else
    (s.leafOf w va).bind fun s1 le =>
      let l := le.1
      let e := le.2
      match permFault k e with
      | some (c, d) => .fault (accFault c d va)
      | none =>
        if leafAper e = 0 && !s.keyUsable w.ctx (leafKey e) then .fault (accFault cACCESS 0x06 va)
        else if leafAper e % 2 = 1 then
          if x.joined then .ok s1 (.peer (leafPeer e) (leafAper e == 3) (leafAper e == 1 && leafPol e == 0))
          else .fault (accFault cACCESS 0x08 va)
        else
          let pa := leafPfn e * 2 ^ 16 + va % 2 ^ levelShift l
          if leafAper e = 2 then .ok s1 (.mem (hostKey pa) 0 false)
          else if 2 ^ 39 ≤ pa then .stop pa
          else .ok s1 (.mem pa (s.keyMat (leafKey e)) (leafPol e == 1))

/-! ### The footprint (R193) -/

/-- Size in bytes of an element of a frame, and its width in bits, by WCODE (R54). -/
def FrameDesc.width (f : FrameDesc) : Nat := if f.wcode = 0 then 4 else 4 * 2 ^ f.wcode

def FrameDesc.elemBytes (f : FrameDesc) : Nat := max 1 (f.width / 8)

/-- `VBase` (R56). -/
def TaskBox.vbase (b : TaskBox) : Nat := if b.version = 0 then b.desc.base.toNat else b.desc.alt.toNat

/-- `FrameAddr` of R56 without the wrap at 2^64. -/
def FrameDesc.offset (f : FrameDesc) (i : Vector Nat 4) : Nat :=
  i[0] * f.width / 8 + i[1] * f.pitch[1] + i[2] * f.pitch[2] + i[3] * f.pitch[3]

def TaskBox.empty (b : TaskBox) : Bool :=
  (List.range 4).any fun d => decide (d < b.desc.ndim) && b.lo[d]! == b.hi[d]!

/-- Splitting an offset into the index of each dimension from `d` down to 1, and what is left for dimension 0. Dimensions of one
frame do not interleave (R55). -/
def splitOffset (f : FrameDesc) : Nat → Nat → List (Nat × Nat) × Nat
  | 0, o => ([], o)
  | d + 1, o =>
    let p := f.pitch[d + 1]!
    let r := splitOffset f d (o % p)
    ((d + 1, o / p) :: r.1, r.2)

/-- A byte at an offset from the frame's base holds an element of the box; 4-bit elements are widened to bytes (R63, R193). -/
def TaskBox.holdsOffset (b : TaskBox) (o : Nat) : Bool :=
  let f := b.desc
  let r := splitOffset f (f.ndim - 1) o
  (r.1.all fun x => decide (b.lo[x.1]! ≤ x.2) && decide (x.2 < b.hi[x.1]!) && decide (x.2 < f.ext[x.1]!)) &&
  (if f.wcode = 0 then decide (b.lo[0] / 2 ≤ r.2) && decide (r.2 < (b.hi[0] + 1) / 2)
   else decide (b.lo[0] ≤ r.2 / f.elemBytes) && decide (r.2 / f.elemBytes < b.hi[0]))

/-- A byte address lies in the box at its bound version. -/
def TaskBox.holds (b : TaskBox) (va : Nat) : Bool :=
  !b.empty && b.holdsOffset ((va + 2 ^ 64 - b.vbase) % 2 ^ 64)

/-- What a mode grants (R61). -/
def BoxMode.grants (m : BoxMode) (k : AccKind) : Bool :=
  match k with
  | .read => m == .R || m == .RW || m == .WOV
  | .write => m == .W || m == .RW || m == .WOV
  | .atomic | .red => m == .A
  | .fetch => true

/-- The private stack area of a cell in its context's window (R88). -/
def Ctx.inStack (x : Ctx) (c : Fin 256) (va : Nat) : Bool :=
  let lo := x.vbase.toNat + (clusterOf c).val * 2 ^ 26 + localIx c * x.scratch * 2 ^ 16
  x.vlimit != 0 && decide (lo ≤ va) && decide (va < lo + x.scratch * 2 ^ 16)

/-- The detail of R193 for one byte, or none where the footprint grants it. -/
def byteVerdict (boxes : List TaskBox) (slot : Option Nat) (stack : Bool) (k : AccKind) (va : Nat) : Option (BitVec 8) :=
  match k with
  | .fetch => none
  | .atomic | .red => if boxes.any fun b => b.mode == .A && b.holds va then none else some 0x03
  | .read | .write =>
    if boxes.any fun b => b.mode == .A && b.holds va then some 0x02
    else
      let named := match slot with | none => boxes | some i => boxes[i]?.toList
      let inside := named.filter (·.holds va)
      if inside.any (·.mode.grants k) || (slot.isNone && stack) then none
      else if inside.isEmpty then some 0x01
      else some 0x04

/-- Step 2 of R96 for `n` bytes from `va`: the first failing byte. -/
def State.footFault (s : State) (w : Agent) (k : AccKind) (slot : Option Nat) (va : Nat) : Nat → Option AccFault
  | 0 => none
  | n + 1 =>
    match w.foot with
    | none => none
    | some boxes =>
      let stack := match w.cell with | some c => (s.ctxAt w.ctx).inStack c va | none => false
      match byteVerdict boxes slot stack k va with
      | some d => some (accFault cREGION d va)
      | none => s.footFault w k slot ((va + 1) % 2 ^ 64) n

/-! ### The plan of an access -/

/-- Cutting an access at 64 KiB granules. -/
def pieces : Nat → Nat → Nat → List (Nat × Nat)
  | 0, _, _ => []
  | fuel + 1, va, n =>
    if n = 0 then []
    else
      let k := min n (65536 - va % 65536)
      (va, k) :: pieces fuel ((va + k) % 2 ^ 64) (n - k)

/-- Steps 3 to 5 of R96 for every piece in turn. -/
def State.translateAll (s : State) (w : Agent) (k : AccKind) : List (Nat × Nat) → XR (List Seg)
  | [] => .ok s []
  | (va, n) :: ps =>
    (s.translate w k va).bind fun s1 loc =>
      (s1.translateAll w k ps).bind fun s2 segs => .ok s2 (⟨va, n, loc⟩ :: segs)

/-- The first byte of an access that lies in the flag aperture (R200). -/
def apertureByte (va : Nat) : Nat → Option Nat
  | 0 => none
  | n + 1 => if inAperture va then some va else if inAperture (va + n) then some flagBase else none

/-- The definitions in force for step `t` among those held of a rank: for each id the one with the latest first step. -/
def Ctx.winsOf (x : Ctx) (rank : Nat) (t : BitVec 32) : List WinDef :=
  let mine := x.wins.filter fun d => d.rank == rank && decide ((t - d.fromStep).toNat < 2 ^ 31)
  mine.filter fun d => d.size != 0 &&
    mine.all fun e => e.id != d.id || decide ((d.fromStep - e.fromStep).toNat < 2 ^ 31)

/-- R229: the access touches an inbound window of this device while the boundary before the running step is not applied. -/
def Ctx.stalls (x : Ctx) (va n : Nat) : Bool :=
  x.joined && x.applied != x.step &&
  (x.winsOf x.rank x.step).any fun d => decide (d.base < va + n) && decide (va < d.base + d.size)

/-- The first byte of a local piece that stalls. -/
def Ctx.stallByte (x : Ctx) (g : Seg) : Option Nat :=
  if !g.loc.isPeer && x.stalls g.va g.len then ((List.range g.len).find? fun i => x.stalls (g.va + i) 1).map (g.va + ·) else none

/-- Steps 2 to 5 of R96 and the stall of R229 for an access of `n` bytes at `va` under a box slot or none. -/
def State.planAccess (s : State) (w : Agent) (k : AccKind) (slot : Option Nat) (va n : Nat) : XR (List Seg) :=
  match apertureByte va n with
  | some a => .fault (accFault cACCESS 0x0B a)
  | none =>
    match s.footFault w k slot va n with
    | some f => .fault f
    | none =>
      (s.translateAll w k (pieces (n / 65536 + 2) va n)).bind fun s1 segs =>
        match segs.findSome? ((s.ctxAt w.ctx).stallByte) with
        | some a => .stall a
        | none => .ok s1 segs

/-- Memory keys of a local piece. -/
def Seg.keys (g : Seg) : List Nat :=
  match g.loc with
  | .mem k _ _ => (List.range g.len).map (k + ·)
  | .peer .. => []

def segKeys (gs : List Seg) : List Nat := gs.flatMap Seg.keys

/-- Step 7 of R96 for a read of one local piece. -/
def State.badRead (s : State) (g : Seg) : Option AccFault :=
  match g.loc with
  | .mem k _ _ =>
    match (List.range g.len).find? fun i => s.isBad (k + i) with
    | some i => some ⟨cUNCORR, 0x01, 0, word (g.va + i), ueOf (k + i)⟩
    | none => none
  | .peer .. => none

/-- A write that covers only part of a bad granule is not performed (R107). -/
def State.badWrite (s : State) (gs : List Seg) : Option AccFault :=
  let keys := segKeys gs
  gs.findSome? fun g =>
    match g.loc with
    | .mem k _ _ =>
      match (List.range g.len).find? (fun i => s.isBad (k + i) &&
          !((List.range 8).all fun j => keys.contains ((k + i) / 8 * 8 + j))) with
      | some i => some ⟨cUNCORR, 0x01, 0, word (g.va + i), ueOf (k + i)⟩
      | none => none
    | .peer .. => none

/-- The bytes of a local piece as its reader decrypts them. -/
def State.segBytes (s : State) (g : Seg) : List Byte :=
  match g.loc with
  | .mem k m _ => (List.range g.len).map fun i => s.readUnder (k + i) m
  | .peer .. => []

end Sys2Proof.Machine
end

