-- ==== Sys2Proof/Machine/Net.lean ====
section
/-! DEFINITION. Packets and routes (R238 to R240), reads of peers (R155, R217), and the outbound caravan (R214 to R216, R223, R224). -/

namespace Sys2Proof.Machine

/-! ### Routes and packets -/

/-- The valid next hops of a destination whose link is up (R238, R239). -/
def State.liveHops (s : State) (dst : Nat) : List (Fin 36) :=
  if h : dst < 4096 then
    let e := s.fab.routes[dst].toNat
    [0, 8, 16, 24].filterMap fun p =>
      if bitsOf e (p + 7) 1 = 1 then
        if h2 : bitsOf e p 6 < 36 then
          let l : Fin 36 := ⟨bitsOf e p 6, h2⟩
          if s.fab.linkUp[l] then some l else none
        else none
      else none
  else []

def clsCode : PktClass → Nat
  | .request => 0 | .response => 1 | .caravan => 2

/-- The hop that the hash of source, destination, class and agent picks (R239). -/
def State.nextHop (s : State) (p : Packet) : Option (Fin 36) :=
  let l := s.liveHops p.dst
  l[Config.hopHash p.src p.dst (clsCode p.cls) p.agent % l.length]?

/-- The context here that a job maps (R286). -/
def State.ctxOfJob (s : State) (job : Nat) : Option (Fin 64) :=
  (List.finRange 64).find? fun i => (s.ctxAt i).joined && (s.ctxAt i).job == job

/-- This device is the packet's destination. -/
def State.isMine (s : State) (p : Packet) : Bool :=
  match s.ctxOfJob p.job with
  | some i => (s.ctxAt i).rank == p.dst
  | none => false

/-- The virtual channel of a packet on its next link: of the five of its class the one numbered by the hops taken (R239). -/
def packetChannel (p : Packet) : Nat := clsCode p.cls * 5 + p.hops

/-- A packet that has crossed one more link. -/
def hopped (p : Packet) : Packet := { p with hops := p.hops + 1 }

/-- Putting a packet on a link; it stays unacknowledged, as it stood here, until the next device has it (R240). -/
def State.emit (s : State) (l : Fin 36) (p : Packet) : State :=
  { s with fab := { s.fab with
      out := (l.val, packetChannel p, hopped p) :: s.fab.out
      unacked := s.fab.unacked ++ [(l.val, p)] } }

/-- The event that a packet causes where it arrives. -/
def arrivalOf (p : Packet) : Instr :=
  match p.body with
  | .post .. => .remotePostArrival p
  | .postAnswer id v => .tpostxAnswer id v
  | .readReq .. => .peerReadRequest p
  | .readResp id ans => .peerReadResponse id ans
  | .record _ => .caravanRecordArrival p
  | .sealUp .. => .sealArrival p
  | .release .. => .boundaryRelease p
  | .report .. => .boundaryResultReport p
  | .barArrive .. => .podBarrierArrival p
  | .barReply .. => .podBarrierPhase p
  | .barPhase .. => .podBarrierPhase p
  | .absence _ away => if away then .proxyAbsenceToken p else .absenceTokenWithdrawal p
  | .collData .. => .collDataArrival p
  | .collCredit .. => .collCreditArrival p
  | .collAck .. => .collAckArrival p
  | .collAbort _ => .collAbortArrival p

/-- Sending a packet of this device: to itself it arrives without a link; none where no live next hop exists. DEDUCED (log entry 39): a
TPOSTX to the device's own rank goes to its own post sequencer, as the text of R418 says, whatever the route table holds for that rank. -/
def State.sendPacket (s : State) (p : Packet) : Option State :=
  let p1 := { p with seqNo := s.clk.nextId }
  if s.isMine p1 then some { s.bump with agenda := s.agenda ++ [.event (arrivalOf p1)] }
  else (s.nextHop p1).map fun l => s.bump.emit l p1

/-- A packet of a context to a rank of its job. -/
def Ctx.packet (x : Ctx) (cls : PktClass) (dst agent : Nat) (body : Body) : Packet :=
  ⟨cls, x.rank, dst, x.job, 0, agent, 0, body⟩

def State.send (s : State) (x : Ctx) (cls : PktClass) (dst agent : Nat) (body : Body) : Option State :=
  s.sendPacket (x.packet cls dst agent body)

/-- A packet that no live next hop takes waits among the unacknowledged ones, on no link (36), until a link comes up (R240). -/
def State.holdPacket (s : State) (p : Packet) : State :=
  { s.bump with fab := { s.fab with unacked := s.fab.unacked ++ [(36, { p with seqNo := s.clk.nextId })] } }

/-- Sending what must arrive once a route exists: seals, releases, reports, answers and barrier traffic. -/
def State.sendOrHold (s : State) (p : Packet) : State := (s.sendPacket p).getD (s.holdPacket p)

def State.send! (s : State) (x : Ctx) (cls : PktClass) (dst agent : Nat) (body : Body) : State :=
  s.sendOrHold (x.packet cls dst agent body)

/-- A packet takes effect once: a duplicate is discarded by its source and sequence number (R240). -/
def State.once (s : State) (p : Packet) (f : State → State) : State :=
  let k := (p.job * 4096 + p.src, p.seqNo)
  if s.fab.seen.contains k then s else f { s with fab := { s.fab with seen := k :: s.fab.seen } }

/-! ### Reads of peers -/

/-- The bytes that a read asks of the peer: through the remote-line cache whole 64-byte lines, else its own (R105). -/
def readSpan (cached : Bool) (va n : Nat) : Nat × Nat :=
  if cached then (va / 64 * 64, (va + n + 63) / 64 * 64 - va / 64 * 64) else (va, n)

def PeerRead.isMine (r : PeerRead) (w : Agent) (rank va n : Nat) : Bool :=
  r.reader == w.reader && r.ctx == w.ctx && r.rank == rank && r.va == va && r.len == n

/-- The line of the cache that holds an address, under the context, the rank and the running boundary (R105). -/
def RemoteLine.holds (l : RemoteLine) (w : Agent) (rank va : Nat) : Bool :=
  l.ctx == w.ctx && l.rank == rank && l.step == w.step && l.line == va / 64

/-- The byte at an address that the remote-line cache holds. -/
def State.lineAt (s : State) (w : Agent) (rank va : Nat) : Option Byte :=
  (s.fab.lines.find? (·.holds w rank va)).bind fun l => l.bytes[va % 64]?

/-- Lines that the 32 MiB of the cache hold. -/
def lineCount : Nat := 524288

/-- The lines that an answer brings, those the cache does not hold: the oldest go where it is full (log entry 5). -/
def State.keepLines (s : State) (r : PeerRead) (bs : List Byte) : State :=
  let new := (List.range (r.len / 64)).filterMap fun i =>
    let l : RemoteLine := ⟨r.ctx, r.rank, r.step, r.va / 64 + i, (bs.drop (64 * i)).take 64⟩
    if s.fab.lines.any fun x => x.ctx == l.ctx && x.rank == l.rank && x.step == l.step && x.line == l.line then none else some l
  { s with fab := { s.fab with lines := keepLast lineCount (s.fab.lines ++ new) } }

/-- Taking the answer of a read: cacheable lines stay (R105). An access of one piece is over with it; the others keep their answers until
all of their pieces have come. -/
def State.takeRead (s : State) (r : PeerRead) (bs : List Byte) : State :=
  let s1 := if r.reader < 4096 then { s with fab := { s.fab with reads := s.fab.reads.filter fun x => x.id != r.id } } else s
  if r.cached then s1.keepLines r bs else s1

/-- A read of `n` bytes at a peer: the answer once it has come, else the lines of the cache that hold all of it, else a request that leaves
the device (R105, R155, R217). -/
def State.peerRead (s : State) (w : Agent) (rank : Nat) (host cached : Bool) (va n : Nat) : XR (List Byte) :=
  let span := readSpan cached va n
  match s.fab.reads.find? (·.isMine w rank span.1 span.2) with
  | some r =>
    match r.ans with
    | none => .pend s
    | some (.fault c d) => .fault ⟨c, d, 0, word va, none⟩
    | some (.data bs) => .ok (s.takeRead r bs) ((bs.drop (va - span.1)).take n)
  | none =>
    match (if cached then (List.range n).mapM fun i => s.lineAt w rank (va + i) else none) with
    | some bs => .ok s bs
    | none =>
      let r : PeerRead := ⟨s.clk.nextId, w.reader, w.ctx, rank, span.1, span.2, host, w.step, cached, s.clk.fs, none⟩
      match (s.bump.send (s.ctxAt w.ctx) .request rank w.agent (.readReq r.id span.1 span.2 w.step host)) with
      | none => .fault (accFault cLINK 0 va)
      | some s1 => .pend { s1 with fab := { s1.fab with reads := s1.fab.reads ++ [r] } }

/-- The bytes of one piece of an access: local bytes under the check of the data, or a read of a peer. -/
def State.readSeg (s : State) (w : Agent) (g : Seg) : XR (List Byte) :=
  match g.loc with
  | .peer rank host cached => s.peerRead w rank host cached g.va g.len
  | .mem .. =>
    match s.badRead g with
    | some f => .fault f
    | none => .ok (s.correct g.keys) (s.segBytes g)

def State.readSegs (s : State) (w : Agent) : List Seg → XR (List Byte)
  | [] => .ok s []
  | g :: gs => (s.readSeg w g).bind fun s1 a => (s1.readSegs w gs).bind fun s2 b => .ok s2 (a ++ b)

/-- A read of `n` bytes at `va`: the checks of R96, then, for a sequencer, its own earlier stores that R184 orders before it, then
the data. -/
def State.readBytes (s : State) (w : Agent) (slot : Option Nat) (va n : Nat) : XR (List Byte) :=
  (s.planAccess w .read slot va n).bind fun s1 gs =>
    let s2 := match w.seqStream with | some st => s1.performBefore (some st) (segKeys gs) | none => s1
    s2.readSegs w gs

/-! ### The outbound caravan -/

def recAddrs : RecBody → List Nat
  | .store bs => bs.map (·.1)
  | .reduce a n _ _ => (List.range n).map (a + ·)

def recIsStore : RecBody → Bool
  | .store _ => true
  | .reduce .. => false

/-- Bytes of SRAM of a record (R224 gives none for a record: a free value). A store record is a sector with a byte mask (R215), so it does
not grow where a later store joins it. -/
def OutRec.size (r : OutRec) : Nat := (Config.recordBytes (recIsStore r.wr.body)).val

/-- Two records with one tag (R215). -/
def OutRec.tagged (r : OutRec) (w : Agent) (host : Bool) (dst : Nat) : Bool :=
  !r.sent && r.wr.host == host && r.ctx == w.ctx && r.dst == dst && r.wr.step == w.step && r.wr.agent == w.agent && r.wr.stream == w.stream

/-- Putting a byte into a list of bytes by address; the later byte replaces the earlier one. -/
def putByte (a : Nat) (b : Byte) : List (Nat × Byte) → List (Nat × Byte)
  | [] => [(a, b)]
  | (a', b') :: t => if a < a' then (a, b) :: (a', b') :: t else if a = a' then (a, b) :: t else (a', b') :: putByte a b t

def mergeBytes (old new : List (Nat × Byte)) : List (Nat × Byte) := new.foldl (fun l x => putByte x.1 x.2 l) old

/-- The record with which a reduction combines: the latest one of its location, if operation, size and address are its own (R215). -/
def reduceMatch (addr n : Nat) (op : AtOp) : List OutRec → Option OutRec
  | [] => none
  | r :: older =>
    match r.wr.body with
    | .reduce a k o _ =>
      if a / 8 = addr / 8 then
        if o = op && k = n then (if a = addr then some r else reduceMatch addr n op older) else none
      else reduceMatch addr n op older
    | .store _ => reduceMatch addr n op older

/-- The record with which a new body combines, and the combined body (R215). -/
def State.combines (s : State) (w : Agent) (host : Bool) (dst : Nat) (b : RecBody) : Option (OutRec × RecBody) :=
  let mine := (s.fab.outRecs.filter fun r => r.tagged w host dst).reverse
  match b with
  | .store bs =>
    let sector := (bs.head?.map (·.1 / 32)).getD 0
    (mine.findSome? fun r =>
      match r.wr.body with
      | .store old => if (old.head?.map (·.1 / 32)).getD 0 = sector then some (r, .store (mergeBytes old bs)) else none
      | .reduce .. => none)
  | .reduce addr n op v =>
    (reduceMatch addr n op mine).bind fun r =>
      match r.wr.body with
      | .reduce a k o c => some (r, .reduce a k o (word (atomicOp op c.toNat v.toNat (8 * n))))
      | .store _ => none

/-- The quota window of a receiver that holds a byte for this sender (R223). -/
def Ctx.quotaWin (x : Ctx) (dst : Nat) (t : BitVec 32) (a : Nat) : Option WinDef :=
  (x.winsOf dst t).find? fun d => decide (d.base ≤ a) && decide (a < d.base + d.size) && decide (d.lo ≤ x.rank) && decide (x.rank ≤ d.hi)

/-- Counting the bytes of a write against quotas; none where a quota would break (R223, R224). -/
def State.countQuota (s : State) (w : Agent) (dst : Nat) : List Nat → Option State
  | [] => some s
  | a :: as =>
    match (s.ctxAt w.ctx).quotaWin dst w.step a with
    | none => s.countQuota w dst as
    | some d =>
      let k := (w.ctx.val, w.step.toNat, dst, d.id, a)
      if s.fab.quotaUsed.contains k then s.countQuota w dst as
      else
        let used := (s.fab.quotaUsed.filter fun x => x.1 == k.1 && x.2.1 == k.2.1 && x.2.2.1 == dst && x.2.2.2.1 == d.id).length
        if d.quota ≤ used then none
        else ({ s with fab := { s.fab with quotaUsed := s.fab.quotaUsed ++ [k] } } : State).countQuota w dst as

def sumSizes (l : List OutRec) : Nat := l.foldl (fun a r => a + r.size) 0

/-- The shared part of the outbound SRAM (R224). -/
def State.sharedBytes (s : State) : Nat :=
  32 * 2 ^ 20 - 524288 * ((List.finRange 64).filter fun i => (s.ctxAt i).joined).length

def State.sharedUsed (s : State) : Nat :=
  sumSizes (s.fab.outRecs.filter fun r => !r.arrived && !r.reserved && !r.spilled)

def State.reservedUsed (s : State) (c : Fin 64) : Nat :=
  sumSizes (s.fab.outRecs.filter fun r => !r.arrived && r.reserved && r.ctx == c)

def State.spillUsed (s : State) (c : Fin 64) : Nat :=
  sumSizes (s.fab.outRecs.filter fun r => !r.arrived && r.spilled && r.ctx == c)

/-- Moving records of strictly lower SPILLPRI from the shared part to their spill areas, lowest first (R224). -/
def State.makeRoom (pri size : Nat) : Nat → State → State
  | 0, s => s
  | fuel + 1, s =>
    if s.sharedUsed + size ≤ s.sharedBytes then s
    else
      let cands := s.fab.outRecs.filter fun r => !r.arrived && !r.reserved && !r.spilled &&
        decide ((s.ctxAt r.ctx).spillpri < pri) &&
        decide (s.spillUsed r.ctx + r.size ≤ (s.ctxAt r.ctx).ospill * 2 ^ 20)
      match cands with
      | [] => s
      | c :: cs =>
        let v := cs.foldl (fun a r => if (s.ctxAt r.ctx).spillpri < (s.ctxAt a.ctx).spillpri then r else a) c
        State.makeRoom pri size fuel
          { s with fab := { s.fab with outRecs := s.fab.outRecs.map fun r =>
              if r.wr.order == v.wr.order then { r with spilled := true } else r } }

/-- Placing a new record, or none where nothing of the context has room (R224). -/
def State.placeRecord (s : State) (r : OutRec) : Option State :=
  let put := fun (t : State) (x : OutRec) => ({ t with fab := { t.fab with outRecs := t.fab.outRecs ++ [x] } } : State)
  if s.reservedUsed r.ctx + r.size ≤ 524288 then some (put s { r with reserved := true })
  else
    let s1 := State.makeRoom (s.ctxAt r.ctx).spillpri r.size s.fab.outRecs.length s
    if s1.sharedUsed + r.size ≤ s1.sharedBytes then some (put s1 r)
    else if s.spillUsed r.ctx + r.size ≤ (s.ctxAt r.ctx).ospill * 2 ^ 20 then some (put s { r with spilled := true })
    else none

/-- Accepting one write for one rank, for its host memory or not: its quota, then its room (R224). -/
def State.acceptOne (s : State) (w : Agent) (va dst : Nat) (host : Bool) (b : RecBody) : Except AccFault State :=
  match s.countQuota w dst (recAddrs b) with
  | none => .error (accFault cCARAVAN 0x01 va)
  | some s1 =>
    match s1.combines w host dst b with
    | some (r, body) =>
      .ok { s1 with fab := { s1.fab with outRecs := s1.fab.outRecs.map fun x =>
        if x.wr.order == r.wr.order then { x with wr := { x.wr with body := body } } else x } }
    | none =>
      match s1.bump.placeRecord ⟨w.ctx, dst, ⟨w.step, w.agent, w.stream, s1.clk.nextId, b, host⟩, false, false, false, false, .none⟩ with
      | some s2 => .ok s2
      | none => .error (accFault cCARAVAN 0x02 va)

/-- Accepting every write of one access, or none of them (R224). -/
def State.accept (s : State) (w : Agent) (va : Nat) : List (Nat × Bool × RecBody) → Except AccFault State
  | [] => .ok s
  | (dst, host, b) :: rest =>
    match s.acceptOne w va dst host b with
    | .error f => .error f
    | .ok s1 => s1.accept w va rest

/-- Store bodies of bytes at an address, one for each 32-byte sector (R215). -/
def sectorBodies (va : Nat) (bs : List Byte) : List RecBody :=
  let xs := bs.zipIdx.map fun x => (va + x.2, x.1)
  let first := va / 32
  let last := (va + bs.length - 1) / 32
  ((List.range (last + 1 - first)).map fun i => RecBody.store (xs.filter fun x => x.1 / 32 == first + i))

/-! ### Writes -/

/-- The peer writes of an access whose pieces carry `bs`. -/
def peerBodies : List Seg → List Byte → List (Nat × Bool × RecBody)
  | [], _ => []
  | g :: gs, bs =>
    let rest := peerBodies gs (bs.drop g.len)
    match g.loc with
    | .peer rank host _ => (sectorBodies g.va (bs.take g.len)).map (fun b => (rank, host, b)) ++ rest
    | .mem .. => rest

/-- The local bytes of an access: key, byte, key material. -/
def localBytes : List Seg → List Byte → List (Nat × Byte × Nat)
  | [], _ => []
  | g :: gs, bs =>
    let rest := localBytes gs (bs.drop g.len)
    match g.loc with
    | .mem k m _ => ((bs.take g.len).zipIdx.map fun x => (k + x.2, x.1, m)) ++ rest
    | .peer .. => rest

/-- What R184 orders before a planned write: a sequencer's earlier stores of its stream come before a write that the caravan takes at once,
and before a local write is judged against a granule in error, which one of them may have repaired. -/
def State.beforeWrite (s : State) (w : Agent) (gs : List Seg) : State :=
  match w.seqStream with
  | none => s
  | some st => if (gs.any fun g => g.loc.isPeer) || (s.badWrite gs).isSome then s.performBefore (some st) (segKeys gs) else s

/-- A planned write: peer bytes enter the caravan, so that a refusal leaves everything unwritten; local bytes of a sequencer wait
to be performed (R182), and an engine's are written. -/
def State.writePlanned (s0 : State) (w : Agent) (va : Nat) (gs : List Seg) (bs : List Byte) : XR Unit :=
  let s := s0.beforeWrite w gs
  match s.badWrite gs with
  | some f => .fault f
  | none =>
    match s.accept w va (peerBodies gs bs) with
    | .error f => .fault f
    | .ok s1 =>
      let loc := localBytes gs bs
      if loc.isEmpty then .ok s1 ()
      else
        match w.seqStream with
        | none => .ok (s1.writeBytes loc) ()
        | some st =>
          let p : PStore := ⟨s1.clk.nextId, s1.cell, s1.role, st, w.ctx, loc, va⟩
          let s2 := s1.bump
          .ok { s2 with mem := { s2.mem with pend := s2.mem.pend ++ [p] } } ()

/-- A write of bytes at `va`: the checks of R96, then the write. -/
def State.writeAt (s : State) (w : Agent) (slot : Option Nat) (va : Nat) (bs : List Byte) : XR Unit :=
  (s.planAccess w .write slot va bs.length).bind fun s1 gs => s1.writePlanned w va gs bs

end Sys2Proof.Machine
end

