-- ==== Sys2Proof/Machine/Operands.lean ====
section
/-! DEFINITION. Operand forms: addresses of loads and stores, address-generator tables and their streams (R137 to R139), the operand
codes of the vector unit with its queues, groups and fragments (R89, R90, R163 to R170), and how an access ends an instruction. -/

namespace Sys2Proof.Machine

/-! ### How an access ends an instruction -/

/-- Going on with the value of an access, or ending as the access ends. -/
def XR.thenI {α : Type} (x : XR α) (s0 : State) (f : State → α → IRes) : IRes :=
  match x with
  | .ok s a => f s a
  | .fault e => .trap e.trap
  | .stall va => .again (s0.noteStall va)
  | .pend s => .again s
  | .stop pa => .stop (.noSuchHbm pa)

/-- Accesses of the acting cell that wait on a walk, other than the acting sequencer's own (R100). -/
def State.walkSlots (s : State) : Nat :=
  ((s.mem.walks.flatMap fun k => if k.ended.isSome then [] else k.waiters).filter fun w =>
    w.1 == some s.cell && w.2 != s.cell.val * 4 + (roleIx s.role).val).length

/-- Every request slot of the acting cell is in use: by a store not yet performed, or by an access that waits on a walk (R100, R101). -/
def State.slotsFull (s : State) : Bool :=
  decide (1024 ≤ (s.mem.pend.filter fun p => p.cell == s.cell).length + s.walkSlots)

/-- The stall of R101: an instruction whose access finds no request slot free stalls at issue. -/
def State.withSlot (s : State) (f : IRes) : IRes := if s.slotsFull then .again s else f

/-! ### Addresses -/

/-- `(G(a) + off) mod 2^64`. -/
def State.addrOf (s : State) (a : Reg) (off : Int) : Nat := (s.g a + wordOfInt off).toNat

/-- The address of an `LD` or `ST`: the offset counts in units of the access size (R297). -/
def State.memAddr (s : State) (a : Reg) (off : BitVec 9) (k : Nat) : Nat := s.addrOf a (off.toInt * k)

/-! ### Address-generator tables (R137, R138) -/

def agField (t : AgImage) (byte lo n : Nat) : Nat := bitsOf t.toNat (8 * byte + lo) n

def agBase (t : AgImage) : Nat := agField t 0 0 64
def agSlot (t : AgImage) : Nat := agField t 8 21 3
def agRel (t : AgImage) : Bool := agField t 8 20 1 == 1
def agTy (t : AgImage) : Nat := agField t 8 16 4
def agChunk (t : AgImage) : Nat := agField t 8 0 16
def agCount (t : AgImage) (l : Nat) : Nat := agField t (0x10 + 2 * l) 0 16
def agStride (t : AgImage) (l : Nat) : Int := sextNat 32 (agField t (0x20 + 4 * l) 0 32)

/-- A table that R137 allows, in a task of `nbox` boxes. -/
def agValid (t : AgImage) (nbox : Nat) : Bool :=
  agField t 8 24 40 == 0 && agField t 0x1C 0 32 == 0 && agField t 0x38 0 64 == 0 &&
  decide (agSlot t < nbox) && decide (1 ≤ agChunk t) && decide (agChunk t ≤ 4096) &&
  (List.range 6).all fun l => decide (1 ≤ agCount t l)

/-- `AgBytes` of R138. -/
def agBytes (t : AgImage) : Nat := (List.range 6).foldl (fun a l => a * agCount t l) (agChunk t)

/-- The address of chunk number `i` of the stream, from level `l` outward. -/
def agOffset (t : AgImage) : Nat → Nat → Nat → Int
  | 0, _, _ => 0
  | fuel + 1, l, i => agStride t l * (i % agCount t l : Nat) + agOffset t fuel (l + 1) (i / agCount t l)

def agChunkAddr (t : AgImage) (i : Nat) : Nat := (word (agBase t) + wordOfInt (agOffset t 6 0 i)).toNat

/-- Cutting stream bytes `[off, off + n)` into parts of chunks: each part's chunk address, its own address and its length. -/
def agParts (t : AgImage) : Nat → Nat → Nat → List (Nat × Nat × Nat)
  | 0, _, _ => []
  | fuel + 1, off, n =>
    if n = 0 then []
    else
      let c := agChunk t
      let a := agChunkAddr t (off / c)
      let k := min n (c - off % c)
      (a, (a + off % c) % 2 ^ 64, k) :: agParts t fuel (off + k) (n - k)

/-- The alignment that a chunk needs (R138). -/
def agAlign (t : AgImage) : Nat := if 13 ≤ agTy t then 1 else max 1 (tyBits (agTy t) / 8)

/-- The first part whose chunk is misaligned. -/
def agMisaligned (t : AgImage) (ps : List (Nat × Nat × Nat)) : Option AccFault :=
  (ps.find? fun p => p.1 % agAlign t != 0).map fun p => accFault cMISALIGNED 0 p.1

def agPartsOf (t : AgImage) (off n : Nat) : List (Nat × Nat × Nat) := agParts t (n / max 1 (agChunk t) + 2) off n

/-- Reading parts of chunks one after another, each under its set's slot. -/
def State.readParts (s : State) (w : Agent) (t : AgImage) : List (Nat × Nat × Nat) → XR (List Byte)
  | [] => .ok s []
  | p :: ps =>
    if p.1 % agAlign t != 0 then .fault (accFault cMISALIGNED 0 p.1)
    else
      (s.readBytes w (some (agSlot t)) p.2.1 p.2.2).bind fun s1 a =>
        (s1.readParts w t ps).bind fun s2 b => .ok s2 (a ++ b)

/-- Bytes `[off, off + n)` of `AgStream(t)` as a command reads them. -/
def State.readStream (s : State) (w : Agent) (t : AgImage) (off n : Nat) : XR (List Byte) :=
  s.readParts w t (agPartsOf t off n)

def State.writeParts (s : State) (w : Agent) (t : AgImage) : List (Nat × Nat × Nat) → List Byte → XR Unit
  | [], _ => .ok s ()
  | p :: ps, bs =>
    if p.1 % agAlign t != 0 then .fault (accFault cMISALIGNED 0 p.1)
    else
      (s.writeAt w (some (agSlot t)) p.2.1 (bs.take p.2.2)).bind fun s1 _ =>
        s1.writeParts w t ps (bs.drop p.2.2)

/-- Writing bytes at offset `off` of `AgStream(t)`. -/
def State.writeStream (s : State) (w : Agent) (t : AgImage) (off : Nat) (bs : List Byte) : XR Unit :=
  s.writeParts w t (agPartsOf t off bs.length) bs

/-- A shadow as a command latches it: the all-zero table is no table (R139). -/
def Cell.latch (x : Cell) (n : Fin 8) : Option AgImage := if x.ag[n] = 0 then none else some x.ag[n]

/-- The fault of a command that latches an all-zero table, and of one whose AgBytes does not match (R154). -/
def trapNoTable : TrapInfo := trapOf cILLEGAL 0x11 0
def trapBytes : TrapInfo := trapOf cILLEGAL 0x12 0

/-! ### Vector registers -/

/-- VLMAX of a type (R163). -/
def vlMax (ty : Nat) : Nat :=
  match ty with
  | 13 => 1024
  | 14 => 672
  | 15 => 448
  | _ => 4096 / tyBits ty

/-- Element bits of `vl` elements of a group of `k` registers (R169). -/
def groupElems (n : Nat) (regs : List VReg) (vl : Nat) : List Nat :=
  let k := regs.length
  (List.range vl).map fun i => elemOf n (regs.getD (i % k) 0).toNat (i / k)

def regElems (n : Nat) (r : VReg) (vl : Nat) : List Nat := groupElems n [r] vl

/-- Register `j` of a group of `k` that holds the elements `xs` of `n` bits (R169); bits beyond are zero (R165). -/
def groupReg (n k j : Nat) (xs : List Nat) : VReg :=
  BitVec.ofNat 4096 (packElems n ((xs.zipIdx.filter fun x => x.2 % k == j).map (·.1)))

def regOf (n : Nat) (xs : List Nat) : VReg := groupReg n 1 0 xs

/-- Element values of a BX register: whole blocks from byte 0 upward, h = 1 (R163). -/
def bxRegVals (ty : Nat) (r : VReg) (vl : Nat) : List FV :=
  (List.range vl).map fun i => bxDecode (bitsOf r.toNat (8 * bxBytes ty * (i / 16)) (8 * bxBytes ty)) (bxM ty) (i % 16)

/-- The values of `vl` elements of a group, of any type. -/
def groupVals (ty : Nat) (regs : List VReg) (vl : Nat) : List FV :=
  if tyIsBx ty then bxRegVals ty (regs.getD 0 0) vl
  else (groupElems (tyBits ty) regs vl).map (elemVal ty)

/-! ### Operand codes (R166) -/

/-- Codes that a source field may hold, and a destination field. -/
def srcCode (c : Nat) : Bool := decide (c ≤ 25) || c == 28 || c == 29
def dstCode (c : Nat) : Bool := decide (c ≤ 25)

/-- A group of `k` registers that is aligned and does not run past v23, or entries of a queue (R169). -/
def groupFits (c k : Nat) : Bool := k == 1 || c == 24 || c == 25 || (c % k == 0 && decide (c + k ≤ 24))

def isFrag (c : Nat) : Bool := c == 28 || c == 29

/-- Key of an accumulator row of a cell. -/
def accKey (c : Fin 256) (row : Nat) : Nat := c.val * 2048 + row

def State.accRow (s : State) (c : Fin 256) (row : Nat) : AccRow := smGet 0 (accKey c row) s.mem.acc

/-- Writing an accumulator row repairs its columns (R107). -/
def State.setAccRow (s : State) (c : Fin 256) (row : Nat) (v : AccRow) : State :=
  { s with mem := { s.mem with
      acc := smSet 0 (accKey c row) v s.mem.acc
      badAcc := s.mem.badAcc.filter fun k => k / 256 != accKey c row
      softAcc := s.mem.softAcc.filter fun k => k / 256 != accKey c row } }

/-- Column `j` of a row as an f32 code. -/
def rowCol (v : AccRow) (j : Nat) : Nat := bitsOf v.toNat (32 * j) 32

def rowOfCols (xs : List Nat) : AccRow := BitVec.ofNat 8192 (packElems 32 xs)

/-- A bad column of a row among `[lo, lo + n)`. -/
def State.badCol (s : State) (c : Fin 256) (row lo n : Nat) : Option Nat :=
  (List.range n).find? fun j => s.mem.badAcc.contains (accKey c row * 256 + lo + j)

/-- The error that a consumer of an accumulator column reports (R109, R294). -/
def accUe (c : Fin 256) (row col : Nat) : UeInfo :=
  ⟨Fin.ofNat 45 (0x10 + (clusterOf c).val), localIx c, word (row * 1024 + col * 4)⟩

/-- An MMA that C issued earlier writes row `r` and has not written it (R148, R149). -/
def Cmd.writesRow (m : Cmd) (c : Fin 256) (r : Nat) : Bool :=
  match m.op with
  | .mma acc n _ _ _ _ _ _ => m.unit == c.val && m.state != .faulted && decide (acc + m.prog ≤ r) && decide (r < acc + n)
  | _ => false

def State.rowBusy (s : State) (c : Fin 256) (r : Nat) : Bool := s.cmds.any fun m => m.writesRow c r

/-- The fragment that FRAG of ACCP names (R89): 512 bytes. -/
def State.fragment (s : State) (c : Fin 256) : VReg :=
  let f := (s.cellAt c).accp.toNat
  BitVec.ofNat 4096 (bitsOf (s.accRow c (f / 2)).toNat (4096 * (f % 2)) 4096)

/-- Step 5 of R421 for the acting cell: the wait of R149, then REGION_VIOLATION, then the error of R107. -/
def State.fragCheck (s : State) : Option IRes :=
  let x := s.myCell
  let row := x.accp.toNat / 2
  if s.rowBusy s.cell row then some (.again s)
  else if row < x.accFirst || x.accEnd ≤ row then some (.trap (trapOf cREGION 0x05 (word row)))
  else
    match s.badCol s.cell row (128 * (x.accp.toNat % 2)) 128 with
    | some j => some (.trap { trapOf cUNCORR 0x01 (word row) with ue := some (accUe s.cell row (128 * (x.accp.toNat % 2) + j)) })
    | none => none

/-- The queue that a code names as a source and as a destination. -/
def srcQueue (c : Nat) : Option (Fin 4) := if c = 24 then some 0 else if c = 25 then some 1 else none
def dstQueue (c : Nat) : Option (Fin 4) := if c = 24 then some 2 else if c = 25 then some 3 else none

/-- The head `k` entries of a queue are filled: their data. -/
def headEntries (l : List QEntry) (k : Nat) : Option (List VReg) :=
  if l.length < k then none else (l.take k).mapM (·.data)

/-- Every queue that a source names has its entries filled (R38). -/
def Cell.popsReady (x : Cell) (srcs : List (Nat × Nat)) : Bool :=
  srcs.all fun c => match srcQueue c.1 with | some q => (headEntries x.dq[q] c.2).isSome | none => true

/-- The queue of a destination has room for `k` entries (R36). -/
def Cell.pushReady (x : Cell) (dst : Option (Nat × Nat)) : Bool :=
  match dst with
  | none => true
  | some c => match dstQueue c.1 with | some q => decide (x.dq[q].length + c.2 ≤ 8) | none => true

/-- The registers that a source stands for, before any pop. -/
def State.sourceRegs (s : State) (c : Nat × Nat) : List VReg :=
  match srcQueue c.1 with
  | some q => (headEntries s.myCell.dq[q] c.2).getD []
  | none =>
    if isFrag c.1 then [s.fragment s.cell]
    else (List.range c.2).map fun j => if h : c.1 + j < 24 then s.myCell.v[c.1 + j] else 0

/-- The single-bit errors of the fragment that ACCP names are corrected as it is read (R106). -/
def State.correctFrag (s : State) : State :=
  s.correctCols s.cell (s.myCell.accp.toNat / 2) (128 * (s.myCell.accp.toNat % 2)) 128

/-- Pops of one instruction: each queue once, by the largest group that names it (R38), and one increment of FRAG (R167). -/
def State.popAll (s0 : State) (srcs : List (Nat × Nat)) : State :=
  let s := if srcs.any fun p => isFrag p.1 then s0.correctFrag else s0
  let x := s.myCell
  let drop (q : Fin 4) (c : Nat) (y : Cell) : Cell :=
    let k := (srcs.filter fun p => p.1 == c).foldl (fun a p => max a p.2) 0
    { y with dq := y.dq.set q (y.dq[q].drop k) }
  let y := drop 0 24 (drop 1 25 x)
  s.setMyCell (if srcs.any fun p => p.1 == 29 then { y with accp := y.accp + 1 } else y)

/-- Steps 5 and 6 of R421: the sources of an instruction, each by code and group size, and room for its destination; then the effect. -/
def State.withSources (s : State) (srcs : List (Nat × Nat)) (dst : Option (Nat × Nat)) (f : State → List (List VReg) → IRes) : IRes :=
  match (if srcs.any fun p => isFrag p.1 then s.fragCheck else none) with
  | some r => r
  | none =>
    if !s.myCell.popsReady srcs then .wait s (.popQueue (srcs.filterMap fun c => (srcQueue c.1).map fun q => (q, c.2)))
    else if !s.myCell.pushReady dst then
      .wait s (match dst.bind fun c => (dstQueue c.1).map fun q => (q, c.2) with | some x => .pushQueue x.1 x.2 | none => .pushQueue 2 1)
    else f (s.popAll srcs) (srcs.map s.sourceRegs)

/-- A result for a destination code: registers from the base upward, or pushed entries (R36, R166, R169). -/
def State.putDest (s : State) (code : Nat) (regs : List VReg) : State :=
  match dstQueue code with
  | some q =>
    regs.foldl (fun (t : State) r =>
      let x := t.myCell
      (t.setMyCell { x with dq := x.dq.set q (x.dq[q] ++ [⟨t.clk.nextId, some r⟩]) }).bump) s
  | none =>
    let x := s.myCell
    s.setMyCell { x with v := regs.zipIdx.foldl (fun (v : Vector VReg 24) p =>
      if h : code + p.2 < 24 then v.set (code + p.2) p.1 else v) x.v }

/-- The failures of R168. -/
def trapCode : IRes := .trap (trapOf cILLEGAL 0x1A 0)
def trapType : IRes := .trap (trapOf cILLEGAL 0x19 0)
def trapGroup : IRes := .trap (trapOf cILLEGAL 0x17 0)
def trapVl : IRes := .trap (trapOf cILLEGAL 0x18 0)

/-- The element count of the acting cell. -/
def State.vl (s : State) : Nat := s.myCell.vl.toNat

end Sys2Proof.Machine
end

