-- ==== Sys2Proof/Machine/Alu.lean ====
section
/-! DEFINITION. The ALU group, major 0x01 (R304, R331, R354, R392, R433): one definition per instruction. Each completes in the cycle it
issues and raises no trap beyond decode. -/

namespace Sys2Proof.Machine

open Host (Outcome)

/-- An instruction whose whole effect is one register (R323). -/
def writeReg (d : Reg) (v : State → Word) (s : State) : Outcome State Fault Refusal :=
  plainInstr (fun s => .done (s.setG d (v s))) s

/-- `TruncDiv` of R354. -/
def truncDiv (x y : Int) : Int := Int.tdiv x y

/-- A word read signed, or as a natural for `.n`. -/
def readAs (n : Bool) (w : Word) : Int := if n then (w.toNat : Int) else w.toInt

/-- Number of one bits. -/
def popCount (w : Word) : Nat := ((List.range 64).filter fun i => w.getLsbD i).length

def execAdd (d a b : Reg) (s : State) : Outcome State Fault Refusal := writeReg d (fun s => s.g a + s.g b) s

def execSub (d a b : Reg) (s : State) : Outcome State Fault Refusal := writeReg d (fun s => s.g a - s.g b) s

def execMul (d a b : Reg) (s : State) : Outcome State Fault Refusal := writeReg d (fun s => s.g a * s.g b) s

/-- The high word of the product (R392). -/
def execMulh (d a b : Reg) (n : Bool) (s : State) : Outcome State Fault Refusal :=
  writeReg d (fun s => wordOfInt (readAs n (s.g a) * readAs n (s.g b) / (2 ^ 64 : Nat))) s

/-- The quotient toward zero; all ones for a divisor of 0 (R354). -/
def execDiv (d a b : Reg) (n : Bool) (s : State) : Outcome State Fault Refusal :=
  writeReg d (fun s =>
    if s.g b = 0 then BitVec.allOnes 64 else wordOfInt (truncDiv (readAs n (s.g a)) (readAs n (s.g b)))) s

/-- The remainder with the dividend's sign; the dividend for a divisor of 0 (R392). -/
def execRem (d a b : Reg) (n : Bool) (s : State) : Outcome State Fault Refusal :=
  writeReg d (fun s =>
    if s.g b = 0 then s.g a
    else
      wordOfInt (readAs n (s.g a) - truncDiv (readAs n (s.g a)) (readAs n (s.g b)) * readAs n (s.g b))) s

def execAnd (d a b : Reg) (s : State) : Outcome State Fault Refusal := writeReg d (fun s => s.g a &&& s.g b) s

def execOr (d a b : Reg) (s : State) : Outcome State Fault Refusal := writeReg d (fun s => s.g a ||| s.g b) s

def execXor (d a b : Reg) (s : State) : Outcome State Fault Refusal := writeReg d (fun s => s.g a ^^^ s.g b) s

/-- The shift amount `y[5:0]` (R392). -/
def shiftAmt (y : Word) : Nat := y.toNat % 64

def execShl (d a b : Reg) (s : State) : Outcome State Fault Refusal :=
  writeReg d (fun s => s.g a <<< shiftAmt (s.g b)) s

def execShr (d a b : Reg) (s : State) : Outcome State Fault Refusal :=
  writeReg d (fun s => s.g a >>> shiftAmt (s.g b)) s

def execSra (d a b : Reg) (s : State) : Outcome State Fault Refusal :=
  writeReg d (fun s => (s.g a).sshiftRight (shiftAmt (s.g b))) s

def execMin (d a b : Reg) (n : Bool) (s : State) : Outcome State Fault Refusal :=
  writeReg d (fun s => if readAs n (s.g a) ≤ readAs n (s.g b) then s.g a else s.g b) s

def execMax (d a b : Reg) (n : Bool) (s : State) : Outcome State Fault Refusal :=
  writeReg d (fun s => if readAs n (s.g b) ≤ readAs n (s.g a) then s.g a else s.g b) s

/-- Leading zeros, 64 for 0 (R331). -/
def execClz (d a : Reg) (s : State) : Outcome State Fault Refusal :=
  writeReg d (fun s => if s.g a = 0 then 64 else word (63 - Nat.log2 (s.g a).toNat)) s

def execPopc (d a : Reg) (s : State) : Outcome State Fault Refusal :=
  writeReg d (fun s => word (popCount (s.g a))) s

def execSel (d a b c : Reg) (s : State) : Outcome State Fault Refusal :=
  writeReg d (fun s => if s.g c != 0 then s.g a else s.g b) s

def execCmp (d a b : Reg) (cc : Cond) (s : State) : Outcome State Fault Refusal :=
  writeReg d (fun s => boolWord (condHolds cc (s.g a) (s.g b))) s

/-! ### The I-format majors 0x02 to 0x0D (R305, R332, R361, R362, R400, R404, R433) -/

def execAddi (d a : Reg) (imm : BitVec 16) (s : State) : Outcome State Fault Refusal :=
  writeReg d (fun s => s.g a + imm.signExtend 64) s

def execAndi (d a : Reg) (imm : BitVec 16) (s : State) : Outcome State Fault Refusal :=
  writeReg d (fun s => s.g a &&& imm.zeroExtend 64) s

def execOri (d a : Reg) (imm : BitVec 16) (s : State) : Outcome State Fault Refusal :=
  writeReg d (fun s => s.g a ||| imm.zeroExtend 64) s

def execXori (d a : Reg) (imm : BitVec 16) (s : State) : Outcome State Fault Refusal :=
  writeReg d (fun s => s.g a ^^^ imm.zeroExtend 64) s

def execShli (d a : Reg) (sh : Fin 64) (s : State) : Outcome State Fault Refusal :=
  writeReg d (fun s => s.g a <<< sh.val) s

def execShri (d a : Reg) (sh : Fin 64) (s : State) : Outcome State Fault Refusal :=
  writeReg d (fun s => s.g a >>> sh.val) s

def execSrai (d a : Reg) (sh : Fin 64) (s : State) : Outcome State Fault Refusal :=
  writeReg d (fun s => (s.g a).sshiftRight sh.val) s

def execCmpi (d a : Reg) (cc : Cond) (imm : BitVec 13) (s : State) : Outcome State Fault Refusal :=
  writeReg d (fun s => boolWord (condHolds cc (s.g a) (imm.signExtend 64))) s

def execMovi (d : Reg) (imm : BitVec 16) (s : State) : Outcome State Fault Refusal :=
  writeReg d (fun _ => imm.signExtend 64) s

/-- Bits 16k + 15 to 16k of gD are replaced (R400). -/
def execMovh (d : Reg) (imm : BitVec 16) (k : Fin 4) (s : State) : Outcome State Fault Refusal :=
  writeReg d (fun s => putField (s.g d) (16 * k.val) 16 imm.toNat) s

/-- `len` is `lm + 1` (R361, R362). -/
def execExt (d a : Reg) (sgn : Bool) (pos lm : Fin 64) (s : State) : Outcome State Fault Refusal :=
  writeReg d (fun s =>
    let f := field (s.g a) pos.val (lm.val + 1)
    if sgn then sextWord (lm.val + 1) f else word f) s

def execIns (d a : Reg) (pos lm : Fin 64) (s : State) : Outcome State Fault Refusal :=
  writeReg d (fun s => putField (s.g d) pos.val (lm.val + 1) (field (s.g a) 0 (lm.val + 1))) s

end Sys2Proof.Machine
end

