-- ==== Sys2Proof/Machine/FlagGrp.lean ====
section
/-! DEFINITION. The flag group, major 0x23 (R200 to R203, R363 to R365): FWAIT, FSET, FADD, FGET and GSET. -/

namespace Sys2Proof.Machine

open Host (Outcome)

/-- The checks of R364 on a flag's address. -/
def flagChecked (a : Word) (k : IRes) : IRes :=
  if a.toNat % 4 != 0 then .trap (trapOf cMISALIGNED 0 a)
  else if !flagPage a.toNat then .trap (trapOf cACCESS 0x0B a)
  else k

/-- A bound that has run out: the status, or the trap of a `.t` form (R202, R208, R228). -/
def expired (t : Bool) (d : Reg) (eval : Word) (s : State) : IRes :=
  if t then .trap (trapOf cTIMEOUT 0 eval) else .done (s.setG d stTIMEOUT)

/-- FWAIT: the value that satisfied it, else the flag as it stands, else the wait of WINTMO mc (R46, R202). -/
def execFwait (d a b : Reg) (cc : Cond) (t : Bool) (s : State) : Outcome State Fault Refusal :=
  runInstr allRoles .any 4 (fun s =>
    let addr := s.g a
    flagChecked addr (
      match s.me.latch with
      | some v => .done (s.setG d v)
      | none =>
        let v := s.flagAt s.ctxIx addr.toNat
        let ref : BitVec 32 := (s.g b).truncate 32
        if cond32 cc v ref then .done (s.setG d (v.zeroExtend 64))
        else if s.me.wintmo = 0 then expired t d addr s
        else .wait s (.flag addr cc ref t d s.me.wintmo.toNat 0 none))) s

/-- FSET releases the earlier accesses of its sequencer (R187). -/
def execFset (a b : Reg) (s : State) : Outcome State Fault Refusal :=
  plainInstr (fun s =>
    flagChecked (s.g a) (.done (s.performMine.writeFlag s.ctxIx (s.g a).toNat ((s.g b).truncate 32)))) s

def execFadd (d a b : Reg) (s : State) : Outcome State Fault Refusal :=
  plainInstr (fun s =>
    flagChecked (s.g a) (
      let old := s.flagAt s.ctxIx (s.g a).toNat
      .done ((s.performMine.addFlag s.ctxIx (s.g a).toNat ((s.g b).truncate 32)).setG d (old.zeroExtend 64)))) s

def execFget (d a : Reg) (s : State) : Outcome State Fault Refusal :=
  runInstr allRoles .any 4 (fun s =>
    flagChecked (s.g a) (.done (s.setG d ((s.flagAt s.ctxIx (s.g a).toNat).zeroExtend 64)))) s

/-- GSET writes guard gA of its own cell's page (R201). -/
def execGset (a b : Reg) (s : State) : Outcome State Fault Refusal :=
  plainInstr (fun s =>
    let g := (s.g a).toNat
    if g < 1 || 255 < g then .trap (trapOf cILLEGAL 0x1C 0)
    else .done (s.performMine.writeFlag s.ctxIx (cellFlagAddr s.cell g) ((s.g b).truncate 32))) s

end Sys2Proof.Machine
end

