-- ==== Sys2Proof/Machine/Barrier.lean ====
section
/-! DEFINITION. Barrier objects, major 0x24 (R205 to R209, R337 to R339): BINIT, BARV and BWAIT, and the arrivals that cross the pod. -/

namespace Sys2Proof.Machine

open Host (Outcome)

/-- One object: its first two words as they stand. -/
structure BarObj where
  w0 : BitVec 32
  w1 : BitVec 32
  deriving DecidableEq, Repr

def State.barObj (s : State) (ctx : Fin 64) (a : Nat) : BarObj := ⟨s.flagAt ctx a, s.flagAt ctx (a + 4)⟩

def BarObj.exp (o : BarObj) : Nat := o.w0.toNat % 2 ^ 16
def BarObj.arr (o : BarObj) : Nat := o.w0.toNat / 2 ^ 16
def BarObj.phase (o : BarObj) : Nat := o.w1.toNat % 16
def BarObj.scope (o : BarObj) : Nat := o.w1.toNat / 2 ^ 6 % 4
def BarObj.ah (o : BarObj) : Bool := o.w1.getLsbD 5

/-- BWAITs that wait on the object on this device. -/
def State.waitersOf (s : State) (ctx : Fin 64) (a : Nat) : Nat :=
  if s.isObj ctx a then (s.flagAt ctx (a + 4)).toNat / 2 ^ 16 else 0

/-- Scopes that an address's page allows (R205). -/
def scopeFits (a scope : Nat) : Bool :=
  let o := a - flagBase
  if o < 0x40000 then scope == 2 || scope == 3 else if o < 0x80000 then scope == 1 else scope == 0

/-- A scope that fits its page, and pod scope only in a pod job (R205, R338). -/
def State.scopeOk (s : State) (ctx : Fin 64) (a scope : Nat) : Bool :=
  scopeFits a scope && (scope != 3 || (s.ctxAt ctx).joined)

/-- The object that BARV and BWAIT accept (R205). -/
def State.objOk (s : State) (ctx : Fin 64) (a : Nat) : Bool :=
  (s.barObj ctx a).exp != 0 && s.scopeOk ctx a (s.barObj ctx a).scope

/-- The four words become an object: from now on WAITERS and AH are the unit's own (R205). -/
def State.makeObj (s : State) (ctx : Fin 64) (a : Nat) : State :=
  if s.isObj ctx a then s
  else
    let s1 := { s with mem := { s.mem with objs := flagKey ctx a / 4 * 4 :: s.mem.objs } }
    s1.putFlag ctx (a + 4) (s.flagAt ctx (a + 4) &&& 0x0000FFDF#32)

/-- The checks of R338 on an object's address. -/
def objChecked (a : Word) (k : IRes) : IRes :=
  if a.toNat % 16 != 0 then .trap (trapOf cMISALIGNED 0 a)
  else if !flagPage a.toNat then .trap (trapOf cACCESS 0x0B a)
  else k

/-- BINIT writes the whole object (R206). -/
def State.writeObj (s : State) (ctx : Fin 64) (a : Nat) (v : Word) : State :=
  let s1 := s.makeObj ctx a
  let s2 := s1.showFlag ctx a (BitVec.ofNat 32 (field v 0 16))
  let hold := if field v 16 2 = 3 && (s.ctxAt ctx).absent then 2 ^ 5 else 0
  let s3 := s2.showFlag ctx (a + 4) (BitVec.ofNat 32 (field v 16 2 * 2 ^ 6 + hold))
  (s3.showFlag ctx (a + 8) (BitVec.ofNat 32 (field v 32 32))).showFlag ctx (a + 12) 0

/-- BINIT. DEDUCED (log entry 39): it does not read the object's old SCOPE, as R205 says of it by name, although R338 speaks of all three
instructions; its operand is judged. -/
def execBinit (d a b : Reg) (s : State) : Outcome State Fault Refusal :=
  plainInstr (fun s =>
    let addr := (s.g a).toNat
    let v := s.g b
    objChecked (s.g a) (
      if field v 0 16 = 0 || field v 18 14 != 0 || !s.scopeOk s.ctxIx addr (field v 16 2) then .done (s.setG d stBOUNDS)
      else if s.waitersOf s.ctxIx addr != 0 then .done (s.setG d stBUSY)
      else .done ((s.performMine.writeObj s.ctxIx addr v).setG d stOK))) s

/-- The outcome of an arrival. -/
inductive Arrived where
  | bounds
  | overrun
  | counted (old : Nat) (passed : Bool)
  deriving DecidableEq, Repr

/-- `BarvExec` of R207. With `.t` an overrun leaves the object unchanged (R339). -/
def State.barvAt (s : State) (ctx : Fin 64) (a c : Nat) (t : Bool) : State × Arrived :=
  let o := s.barObj ctx a
  if !s.objOk ctx a || c < 1 || 255 < c then (s, .bounds)
  else
    let s1 := s.makeObj ctx a
    if o.exp < o.arr + c then
      (if t then s1 else s1.writeFlag ctx (a + 4) (s1.flagAt ctx (a + 4) ||| 0x10#32), .overrun)
    else if o.arr + c = o.exp then
      let s2 := s1.writeFlag ctx a (BitVec.ofNat 32 o.exp)
      let w1 := s2.flagAt ctx (a + 4)
      (s2.writeFlag ctx (a + 4) ((w1 &&& 0xFFFFFFF0#32) ||| BitVec.ofNat 32 ((o.phase + 1) % 16)), .counted o.phase true)
    else (s1.writeFlag ctx a (BitVec.ofNat 32 (o.exp + (o.arr + c) * 2 ^ 16)), .counted o.phase false)

def Arrived.status : Arrived → Word
  | .bounds => stBOUNDS
  | .overrun => stOVERRUN
  | .counted old _ => word old

/-! ### Pod scope (R209) -/

/-- The lowest set bit at or above `i` among `n` more. -/
def lowestFrom : Nat → Nat → Nat → Option Nat
  | 0, _, _ => none
  | n + 1, i, x => if x % 2 = 1 then some i else lowestFrom n (i + 1) (x / 2)

/-- The home is the live member of lowest rank. -/
def Ctx.home (x : Ctx) : Nat := (lowestFrom 4096 0 x.live.toNat).getD x.rank

/-- The live members other than this device, in rank order. -/
def Ctx.others (x : Ctx) : List Nat := (List.range 4096).filter fun r => x.live.getLsbD r && r != x.rank

/-- The home sends a new PHASE and its absence hold to every other member. -/
def State.sendPhase (s : State) (ctx : Fin 64) (a : Nat) : State :=
  let x := s.ctxAt ctx
  let o := s.barObj ctx a
  x.others.foldl (fun (t : State) r => t.send! x .request r 0 (.barPhase a o.phase o.ah)) s

/-- An arrival counted at the home, with its new PHASE sent on. -/
def State.homeArrival (s : State) (ctx : Fin 64) (a c : Nat) (t : Bool) : State × Arrived :=
  let r := s.barvAt ctx a c t
  match r.2 with
  | .counted _ true => (r.1.sendPhase ctx a, r.2)
  | _ => r

/-- What BARV leaves once its arrival is answered (R207, R339). -/
def barvResult (addr : Word) (d : Reg) (t : Bool) (r : State × Arrived) : IRes :=
  if t && r.2 == .overrun then .trap (trapOf cOVERRUN 0 addr) else .done (r.1.setG d r.2.status)

/-- 25 µs in fs: the bound within which a live route to the home must exist (R339). -/
def homeBound : Nat := 25000000000

def execBarv (d a b : Reg) (t : Bool) (s : State) : Outcome State Fault Refusal :=
  plainInstr (fun s =>
    let addr := (s.g a).toNat
    let x := s.myCtx
    objChecked (s.g a) (
      let c := (s.g b).toNat
      if !s.objOk s.ctxIx addr || c < 1 || 255 < c then .done (s.setG d stBOUNDS)
      else
        let s1 := s.performMine
        if (s.barObj s.ctxIx addr).scope != 3 then barvResult (s.g a) d t (s1.barvAt s.ctxIx addr c t)
        else if x.home = x.rank then barvResult (s.g a) d t (s1.homeArrival s.ctxIx addr c t)
        else
          let id := s1.clk.nextId
          let s2 := s1.bump
          match s2.send x .request x.home 0 (.barArrive id addr c t) with
          | some s3 => .wait s3 (.home id (s.g a) (BitVec.ofNat 8 c) t true d homeBound)
          | none => .wait s2 (.home id (s.g a) (BitVec.ofNat 8 c) t false d homeBound))) s

/-- BWAIT for phase gB[3:0]: WAITERS rises while it waits (R208). -/
def execBwait (d a b : Reg) (t : Bool) (s : State) : Outcome State Fault Refusal :=
  runInstr allRoles .any 4 (fun s =>
    let addr := (s.g a).toNat
    objChecked (s.g a) (
      match s.me.latch with
      | some v => .done (s.setG d v)
      | none =>
        if !s.objOk s.ctxIx addr then .done (s.setG d stBOUNDS)
        else
          let p : BitVec 4 := (s.g b).truncate 4
          match phaseResult p (s.barObj s.ctxIx addr).w1 with
          | some v => .done (s.setG d v)
          | none =>
            let s1 := s.makeObj s.ctxIx addr
            .wait (s1.showFlag s.ctxIx (addr + 4) (s1.flagAt s.ctxIx (addr + 4) + 0x00010000#32))
              (.barrier (s.g a) p t d 0 none))) s

/-! ### The events of a barrier across the pod -/

/-- An arrival at the home: it is counted, and the answer goes back. -/
def State.podArrival (s : State) (ctx : Fin 64) (p : Packet) (id a c : Nat) (t : Bool) : State :=
  let r := s.homeArrival ctx a c t
  r.1.send! (s.ctxAt ctx) .response p.src 0 (.barReply id a r.2.status (r.1.barObj ctx a).phase)

def execPodBarrierArrival (p : Packet) (s : State) : Outcome State Fault Refusal :=
  match p.body, s.ctxOfJob p.job with
  | .barArrive id a c t, some ctx => .next (s.once p fun u => u.podArrival ctx p id a c t)
  | _, _ => .next s

/-- A new PHASE at a copy (R209): waiters re-evaluate. -/
def State.podPhase (s : State) (ctx : Fin 64) (a phase : Nat) (ah : Bool) : State :=
  let s1 := s.makeObj ctx a
  let w1 := s1.flagAt ctx (a + 4)
  let keep := w1 &&& 0xFFFFFFD0#32
  s1.showFlag ctx (a + 4) (keep ||| BitVec.ofNat 32 (phase % 16) ||| (if ah then 0x20#32 else 0))

/-- The answer of the home: the BARV ends with it (R339). -/
def State.barAnswer (s : State) (id : Nat) (result : Word) : State :=
  ((List.finRange 256).flatMap fun c => allRoles.map fun q => (c, q)).foldl (fun (t : State) cq =>
    let y := t.seqAt cq.1 cq.2
    match y.status with
    | .waiting (.home i addr _ trap _ d _) =>
      if i = id then
        let u := { t with cell := cq.1, role := cq.2 }
        let v : State :=
          if trap && result == stOVERRUN then u.takeTrap (trapOf cOVERRUN 0 addr) else (u.setG d result).advance 4
        { v with cell := t.cell, role := t.role }
      else t
    | _ => t) s

def execPodBarrierPhase (p : Packet) (s : State) : Outcome State Fault Refusal :=
  match p.body, s.ctxOfJob p.job with
  | .barReply id _ result _, _ => .next (s.once p fun u => u.barAnswer id result)
  | .barPhase a phase ah, some ctx => .next (s.once p fun u => u.podPhase ctx a phase ah)
  | _, _ => .next s

/-- No live route reached the home within 25 µs: gD receives TIMEOUT, with or without `.t` (R339). -/
def execPodBarvTimeout (c : Fin 256) (q : Role) (s : State) : Outcome State Fault Refusal :=
  match (s.seqAt c q).status with
  | .waiting (.home _ _ _ _ _ d 0) =>
    let u := { s with cell := c, role := q }
    .next { (u.setG d stTIMEOUT).advance 4 with cell := s.cell, role := s.role }
  | _ => .next s

end Sys2Proof.Machine
end

