-- ==== Sys2Proof/Machine/Branch.lean ====
section
/-! DEFINITION. Branches, jumps and LOOP, majors 0x18 to 0x21 (R307, R336, R373, R374, R387 to R391). -/

namespace Sys2Proof.Machine

open Host (Outcome)

/-- `PC + 4 * Sext(off, n)`, where PC is the instruction's own address. -/
def State.relTarget {n : Nat} (s : State) (off : BitVec n) : Word := s.me.pc + (off.signExtend 64 <<< 2)

/-- `BccExec` of R336. -/
def branchOn (cc : Cond) (a b : Reg) (off : BitVec 16) (s : State) : Outcome State Fault Refusal :=
  plainInstr (fun s => if condHolds cc (s.g a) (s.g b) then .jump s (s.relTarget off) else .done s) s

def execB (off : BitVec 26) (s : State) : Outcome State Fault Refusal :=
  plainInstr (fun s => .jump s (s.relTarget off)) s

/-- The link is g31 (R374). -/
def execJal (off : BitVec 26) (s : State) : Outcome State Fault Refusal :=
  plainInstr (fun s => .jump (s.setG 31 (s.me.pc + 4)) (s.relTarget off)) s

/-- `JrExec` of R374: gA is read before the link is written. -/
def execJr (d a : Reg) (s : State) : Outcome State Fault Refusal :=
  plainInstr (fun s =>
    if (s.g a).toNat % 4 != 0 then .trap (trapOf cMISALIGNED 0 (s.g a))
    else .jump (s.setG d (s.me.pc + 4)) (s.g a)) s

/-- `LoopExec` of R388. A count of 0 skips the body and makes the check of R389 at its end. -/
def execLoop (a : Reg) (len : BitVec 16) (s : State) : Outcome State Fault Refusal :=
  plainInstr (fun s =>
    let q := s.me
    let start := q.pc + 4
    let stop := start + (len.zeroExtend 64 <<< 2)
    if 8 ≤ q.loops.length then .trap (trapOf cILLEGAL 0x05 0)
    else if (q.loops.head?.any fun l => decide (l.stop.toNat < stop.toNat)) then
      .trap (trapOf cILLEGAL 0x05 0)
    else if s.g a = 0 then .fixed (s.advance (4 + 4 * len.toNat))
    else .done (s.setMe { q with loops := ⟨start, stop, s.g a⟩ :: q.loops })) s

def execBeq (a b : Reg) (off : BitVec 16) (s : State) : Outcome State Fault Refusal := branchOn .eq a b off s

def execBne (a b : Reg) (off : BitVec 16) (s : State) : Outcome State Fault Refusal := branchOn .ne a b off s

def execBlt (a b : Reg) (off : BitVec 16) (s : State) : Outcome State Fault Refusal := branchOn .lt a b off s

def execBge (a b : Reg) (off : BitVec 16) (s : State) : Outcome State Fault Refusal := branchOn .ge a b off s

def execBltn (a b : Reg) (off : BitVec 16) (s : State) : Outcome State Fault Refusal := branchOn .ltn a b off s

def execBgen (a b : Reg) (off : BitVec 16) (s : State) : Outcome State Fault Refusal := branchOn .gen a b off s

end Sys2Proof.Machine
end

