-- ==== Sys2Proof/Machine/Start.lean ====
section
/-! DEFINITION. Starting a CELL task on a cell (R26, R41), saving a pre-empted task to its slot (R269, R391) and loading it back onto a
cell (R158, R270). -/

namespace Sys2Proof.Machine

/-! ### Start (R26, R41) -/

/-- BWAITs that wait on a barrier object (R205). -/
def State.waitersAt (s : State) (ctx : Fin 64) (a : Nat) : Nat :=
  ((s.cells.toList.filter fun x => x.task.isSome && x.ctx == ctx).flatMap fun x => x.seqs.toList.filter fun y =>
    match y.status with
    | .waiting (.barrier b _ _ _ _ _) => b.toNat == a
    | _ => false).length

/-- A value for the second word of a barrier object, with the WAITERS and AH that the unit maintains whatever is written (R205). -/
def State.withWaiters (s : State) (ctx : Fin 64) (a : Nat) (v : BitVec 32) : BitVec 32 :=
  if s.isObj ctx a && flagKey ctx a % 4 == 1 then
    (v &&& 0x0000FFDF#32) ||| (s.flagAt ctx a &&& 0x20#32) ||| BitVec.ofNat 32 (s.waitersAt ctx (a - 4) * 2 ^ 16)
  else v

/-- Setting flags 1 to 255 of a cell's page in a context to 0, and forgetting the barrier objects of the page, but for one on which a
BWAIT of another cell still waits, whose WAITERS the unit maintains (R41, R200, R205). -/
def State.clearPage (s : State) (ctx : Fin 64) (c : Fin 256) : State :=
  let k0 := flagKey ctx (cellFlagAddr c 0)
  let hit := s.mem.flags.filter fun e => decide (k0 < e.1) && decide (e.1 < k0 + 256)
  let s1 := { s with mem := { s.mem with objs := s.mem.objs.filter fun k =>
    !(decide (k0 ≤ k) && decide (k < k0 + 256)) || s.waitersAt ctx (cellFlagAddr c (k - k0)) != 0 } }
  hit.foldl (fun (t : State) e => t.showFlag ctx (cellFlagAddr c (e.1 - k0)) (t.withWaiters ctx (cellFlagAddr c (e.1 - k0)) 0)) s1

/-- Setting the rows [lo, lo + n) of a cell's accumulator store, which repairs them (R41, R107). -/
def State.clearAcc (s : State) (c : Fin 256) (lo n : Nat) : State :=
  let a := accKey c lo
  { s with mem := { s.mem with
      acc := s.mem.acc.filter fun e => !(decide (a ≤ e.1) && decide (e.1 < a + n))
      badAcc := s.mem.badAcc.filter fun k => !(decide (a ≤ k / 256) && decide (k / 256 < a + n))
      softAcc := s.mem.softAcc.filter fun k => !(decide (a ≤ k / 256) && decide (k / 256 < a + n)) } }

/-- The base bound to a box slot, 0 for one not in use (R67). -/
def fbaseOf (boxes : List TaskBox) (i : Nat) : Word :=
  match boxes[i]? with
  | some b => word b.vbase
  | none => 0

def fbases (boxes : List TaskBox) : Vector Word 8 := Vector.ofFn fun i => fbaseOf boxes i.val

/-- Initial token counts: four bits for each queue (R26). -/
def tokensOf (t : BitVec 48) : Vector Nat 12 := Vector.ofFn fun i => bitsOf t.toNat (4 * i.val) 4

/-- The cell as a task finds it, before its flags and accumulator rows are cleared (R41). -/
def cellFor (t : Task) (wdef : BitVec 32) : Cell :=
  { Cell.reset with
    task := some t.stamp
    seqs := Vector.replicate 4 { Seq.reset with pc := t.body, wintmo := wdef, status := .ready }
    tokens := tokensOf t.tokens
    accp := BitVec.ofNat 12 (2 * t.accFirst)
    args := t.args
    fbase := fbases t.boxes
    ticket := word t.stamp
    ctx := t.ctx
    accFirst := t.accFirst
    accEnd := t.accEnd
    boxes := t.boxes }

def State.startCell (s : State) (t : Task) (c : Fin 256) : State :=
  let s1 := (s.clearPage t.ctx c).clearAcc c t.accFirst (t.accEnd - t.accFirst)
  let s2 := s1.setCell c (cellFor t (s1.ctxAt t.ctx).wdef)
  s2.setTask { t with state := .running, cell := some c, claim := none }

/-! ### The save slot (R267, R269) -/

/-- Size of a slot of a context. -/
def Ctx.slotSize (x : Ctx) : Nat := 0x210000 + x.scratch * 0x10000

/-- Physical address of slot `k`. -/
def Ctx.slotAddr (x : Ctx) (k : Nat) : Nat := field x.savebase 16 36 * 2 ^ 16 + k * x.slotSize

/-- Layout of a loop stack, outermost level first (R391). -/
def loopBytes (l : List LoopLevel) : List Byte :=
  let lv := l.reverse
  bytesOf 8 lv.length ++ (lv.flatMap fun x => bytesOf 8 x.start.toNat ++ bytesOf 8 x.stop.toNat ++ bytesOf 8 x.remain.toNat)
    ++ List.replicate (24 * (8 - lv.length)) 0

/-- A sequencer's 512 bytes. -/
def seqBytes (q : Seq) : List Byte :=
  bytesOf 8 q.pc.toNat ++ bytesOf 8 q.cause.toNat ++ bytesOf 8 q.epc.toNat ++ bytesOf 8 q.eval.toNat ++ bytesOf 8 q.eprog.toNat
    ++ bytesOf 8 q.tvec.toNat ++ bytesOf 8 q.esave.toNat ++ bytesOf 8 q.wintmo.toNat
    ++ ((q.g.toList.drop 1).flatMap fun w => bytesOf 8 w.toNat) ++ loopBytes q.loops

/-- LDA records of rows that are still live: table and the first live row of the LDA's own rows (R158). -/
def Cell.liveRecs (x : Cell) : List LdaRec := x.ldaRecs.filter fun r => decide (x.ringHead < r.first + r.rows)

def recBytes (head : Nat) (r : LdaRec) : List Byte :=
  bytesOf 64 r.table.toNat ++ bytesOf 8 (head - r.first) ++ bytesOf 8 0

def bsrcBytes (b : Option (AgImage × Nat)) : List Byte :=
  match b with
  | some (t, n) => bytesOf 64 t.toNat ++ bytesOf 8 n
  | none => List.replicate 72 0

/-- Load-engine state: the order of the fields within its 256 bytes is the model's (log entry 13). -/
def loadBytes (x : Cell) : List Byte :=
  bytesOf 8 x.ringHead ++ bytesOf 8 x.ringNext ++ bsrcBytes x.bsrc[0] ++ bsrcBytes x.bsrc[1] ++ bytesOf 8 x.liveRecs.length

def padTo (n : Nat) (bs : List Byte) : List Byte := bs ++ List.replicate (n - bs.length) 0

/-- Bit 1 + SEQ of the word at +0x0008 for each ended sequencer. -/
def endedBits (x : Cell) : Nat :=
  (x.seqs.toList.zipIdx.filter fun p => p.1.status == .ended).foldl (fun a p => a + 2 ^ (1 + p.2)) 0

def queueBytes (l : List QEntry) : List Byte := padTo 0x1000 (l.flatMap fun e => bytesOf 512 (e.data.getD 0).toNat)

/-- The bytes of accumulator row `r`: a column with a double-bit error has no value to save. -/
def State.accBytes (s : State) (c : Fin 256) (r : Nat) : List Byte :=
  (List.range 256).flatMap fun j =>
    if s.mem.badAcc.contains (accKey c r * 256 + j) then (List.range 4).map fun i => Config.lostByte ((accKey c r * 256 + j) * 4 + i)
    else bytesOf 4 (rowCol (s.accRow c r) j)

/-- A stack byte as a save reads it. R269 names no fault for one that has no value: it is free (log entry 11). -/
def State.stackByte (s : State) (k : Nat) : Byte := if s.isBad k then Config.lostByte k else s.readKey k

/-- First byte of the cell's stack area in its context's window (R88). -/
def Ctx.stackAt (x : Ctx) (c : Fin 256) : Nat := x.vbase.toNat + (clusterOf c).val * 2 ^ 26 + localIx c * x.scratch * 2 ^ 16

/-- Keys of the cell's stack area. -/
def Ctx.stackKeys (x : Ctx) (c : Fin 256) : List Nat :=
  match x.vaultDecode (x.stackAt c) with
  | some k => (List.range (x.scratch * 0x10000)).map (k + ·)
  | none => []

/-- The single-bit errors that a save meets in the accumulator rows and the stack area are corrected as it reads them (R106). -/
def State.correctSaved (s : State) (c : Fin 256) : State :=
  let x := s.cellAt c
  let s1 := (List.range (x.accEnd - x.accFirst)).foldl (fun (u : State) i => u.correctCols c (x.accFirst + i) 0 256) s
  let keys := (s.ctxAt x.ctx).stackKeys c
  s1.correct ((s1.mem.soft.map (· * 8)).filter fun a => keys.any fun k => k / 8 * 8 == a)

/-- The parts of a slot, each at its offset (R269). -/
def State.imageParts (s : State) (c : Fin 256) (stamp : Nat) : List (Nat × List Byte) :=
  let x := s.cellAt c
  let y := s.ctxAt x.ctx
  [(0x0000, bytesOf 8 stamp ++ bytesOf 8 (1 + endedBits x) ++ List.replicate 240 0),
    (0x0100, seqBytes x.seqs[0]), (0x0300, seqBytes x.seqs[1]), (0x0500, seqBytes x.seqs[2]), (0x0700, seqBytes x.seqs[3]),
    (0x0900, bytesOf 8 x.fpctl.toNat ++ bytesOf 8 x.fpflg.toNat ++ bytesOf 8 x.vl.toNat ++ bytesOf 8 x.accp.toNat),
    (0x0A00, x.m.toList.flatMap fun m => bytesOf 16 m.toNat),
    (0x0B00, (x.tokens.toList.map fun n => BitVec.ofNat 8 n) ++ List.replicate 4 0),
    (0x0B10, bytesOf 8 x.fmtq.length ++ padTo 128 (x.fmtq.flatMap fun w => bytesOf 8 w.toNat)),
    (0x0C00, x.ag.toList.flatMap fun t => bytesOf 64 t.toNat),
    (0x0E00, x.dq.toList.flatMap fun l => bytesOf 8 l.length),
    (0x0F00, padTo 256 (loadBytes x)),
    (0x1000, x.v.toList.flatMap fun r => bytesOf 512 r.toNat),
    (0x4000, x.dq.toList.flatMap queueBytes),
    (0x8000, padTo 20480 (x.liveRecs.flatMap (recBytes x.ringHead))),
    (0xD000, bytesOf 4 0 ++ ((List.range 255).flatMap fun i => bytesOf 4 (s.flagAt x.ctx (cellFlagAddr c (i + 1))).toNat)),
    (0x10000, (List.range (x.accEnd - x.accFirst)).flatMap fun i => s.accBytes c (x.accFirst + i)),
    (0x210000, (y.stackKeys c).map s.stackByte)]

/-- Writing the slot under TKEY (R267). -/
def State.writeSlot (s : State) (c : Fin 256) (stamp k : Nat) : State :=
  let x := s.cellAt c
  let y := s.ctxAt x.ctx
  let m := s.keyMat y.tkey
  (s.imageParts c stamp).foldl (fun (t : State) p =>
    t.writeBytes (p.2.zipIdx.map fun b => (y.slotAddr k + p.1 + b.2, b.1, m))) (s.correctSaved c)

/-! ### Loading a slot (R270) -/

/-- Single-bit errors of the whole slot are corrected as the cell reads it (R106, R269). -/
def State.correctSlot (s : State) (y : Ctx) (k : Nat) : State :=
  let lo := y.slotAddr k
  s.correct ((s.mem.soft.map (· * 8)).filter fun a => decide (lo ≤ a) && decide (a < lo + 0x210000 + y.scratch * 0x10000))

/-- One byte of a slot as the cell reads it. -/
def State.slotByte (s : State) (y : Ctx) (a : Nat) : Byte :=
  if s.isBad a then Config.lostByte a else s.readUnder a (s.keyMat y.tkey)

/-- The number that `n` bytes at an offset of slot `k` spell. -/
def State.slotNat (s : State) (y : Ctx) (k off n : Nat) : Nat :=
  natOf ((List.range n).map fun i => s.slotByte y (y.slotAddr k + off + i))

def State.slotWord (s : State) (y : Ctx) (k off : Nat) : Word := word (s.slotNat y k off 8)

/-- CAUSE with its reserved bits, 63:32 and 30:22, at 0 (R6, R258). -/
def causeKept (v : Word) : Word := word (field v 31 1 * 2 ^ 31 + field v 0 22)

/-- One sequencer from its 512 bytes at `o`. Reserved bits of a register read 0 whatever the slot holds (R6). -/
def State.loadSeq (s : State) (y : Ctx) (k o : Nat) (ended : Bool) : Seq :=
  let w := fun off => s.slotWord y k (o + off)
  let n := (w 0x138).toNat % 16
  { Seq.reset with
    pc := w 0
    g := Vector.ofFn fun i => if i.val = 0 then 0 else w (0x40 + 8 * (i.val - 1))
    cause := causeKept (w 8)
    epc := putField (w 0x10) 0 2 0
    eval := w 0x18
    eprog := BitVec.ofNat 64 (field (w 0x20) 0 32)
    tvec := putField (w 0x28) 0 2 0
    esave := w 0x30
    wintmo := (w 0x38).truncate 32
    loops := ((List.range n).map fun l => ⟨w (0x140 + 24 * l), w (0x148 + 24 * l), w (0x150 + 24 * l)⟩).reverse
    status := if ended then .ended else .ready
    reports := if bitAt (w 8) 31 then [none] else [] }

def State.loadQueue (s : State) (y : Ctx) (k q n : Nat) : List QEntry :=
  (List.range n).map fun i => ⟨s.clk.nextId + 8 * q + i, some (BitVec.ofNat 4096 (s.slotNat y k (0x4000 + 0x1000 * q + 512 * i) 512))⟩

def State.loadBsrc (s : State) (y : Ctx) (k o : Nat) : Option (AgImage × Nat) :=
  let t := s.slotNat y k o 64
  if t = 0 then none else some (BitVec.ofNat 512 t, s.slotNat y k (o + 64) 8)

/-- Stream bytes of an LDA table divided into ring rows. -/
def agRows (t : AgImage) : Nat := agBytes t / 72

/-- LDA records with the ring rows they fill: the last ends at the next sequence number (R135, R158). -/
def placeRecs (next : Nat) : List AgImage → List LdaRec
  | [] => []
  | t :: ts =>
    let rest := placeRecs next ts
    let stop := match rest with | r :: _ => r.first | [] => next
    ⟨t, stop - agRows t, agRows t⟩ :: rest

/-- The cell with everything the slot holds; the ring and the buffers are rebuilt after it. -/
def State.loadCell (s : State) (t : Task) (y : Ctx) (k : Nat) : Cell :=
  let ended := s.slotNat y k 8 1
  let nrec := s.slotNat y k 0xFA0 8 % 257
  let next := s.slotNat y k 0xF08 8
  let tables := (List.range nrec).map fun i => (BitVec.ofNat 512 (s.slotNat y k (0x8000 + 80 * i) 64) : AgImage)
  let b0 := s.loadBsrc y k 0xF10
  let b1 := s.loadBsrc y k 0xF58
  { cellFor t 0 with
    seqs := Vector.ofFn fun i => s.loadSeq y k (0x100 + 0x200 * i.val) (bitsOf ended (1 + i.val) 1 == 1)
    tokens := Vector.ofFn fun i => s.slotNat y k (0xB00 + i.val) 1
    dq := Vector.ofFn fun i => s.loadQueue y k i.val (s.slotNat y k (0xE00 + 8 * i.val) 8 % 9)
    fmtq := (List.range (s.slotNat y k 0xB10 8 % 17)).map fun i => s.slotWord y k (0xB18 + 8 * i)
    v := Vector.ofFn fun i => BitVec.ofNat 4096 (s.slotNat y k (0x1000 + 512 * i.val) 512)
    m := Vector.ofFn fun i => BitVec.ofNat 128 (s.slotNat y k (0xA00 + 16 * i.val) 16)
    fpctl := BitVec.ofNat 3 (s.slotNat y k 0x900 8)
    fpflg := BitVec.ofNat 6 (s.slotNat y k 0x908 8)
    vl := BitVec.ofNat 11 (s.slotNat y k 0x910 8)
    accp := BitVec.ofNat 12 (s.slotNat y k 0x918 8)
    ag := Vector.ofFn fun i => BitVec.ofNat 512 (s.slotNat y k (0xC00 + 64 * i.val) 64)
    ringHead := s.slotNat y k 0xF00 8
    ringNext := next
    ldaRecs := placeRecs next tables
    bsrc := ⟨#[b0, b1], rfl⟩
    ldbCount := max (match b0 with | some b => b.2 | none => 0) (match b1 with | some b => b.2 | none => 0)
    watchdog := t.watchdog }

/-- Flags 1 to 255 of the resuming cell's page from the slot, with the barrier objects that travel with the task. -/
def State.loadPage (s : State) (t : Task) (c : Fin 256) (y : Ctx) (k : Nat) : State :=
  let s1 := s.clearPage t.ctx c
  let vals := (List.range 255).map fun i => (BitVec.ofNat 32 (s.slotNat y k (0xD004 + 4 * i) 4) : BitVec 32)
  let keys := t.pageObjs.map fun g => flagKey t.ctx (cellFlagAddr c (4 * g))
  let s2 := { s1 with mem := { s1.mem with objs := keys ++ s1.mem.objs.filter fun k => !keys.contains k } }
  vals.zipIdx.foldl (fun (u : State) v =>
    u.showFlag t.ctx (cellFlagAddr c (v.2 + 1)) (u.withWaiters t.ctx (cellFlagAddr c (v.2 + 1)) v.1)) s2

/-- The accumulator rows of the task's box, and its stack area. -/
def State.loadStores (s : State) (t : Task) (c : Fin 256) (y : Ctx) (k : Nat) : State :=
  let s1 := (List.range (t.accEnd - t.accFirst)).foldl (fun (u : State) i =>
    u.setAccRow c (t.accFirst + i) (BitVec.ofNat 8192 (s.slotNat y k (0x10000 + 1024 * i) 1024))) s
  s1.writeBytes ((y.stackKeys c).zipIdx.map fun p => (p.1, s.slotByte y (y.slotAddr k + 0x210000 + p.2), 0))

/-- Rereading `n` bytes of a stream for the load engine: peer bytes may still be on their way; a fault leaves bytes that the spec
does not name. -/
def State.reread (s : State) (w : Agent) (t : AgImage) (off n : Nat) : XR (List Byte) :=
  match s.readStream w t off n with
  | .ok s1 bs => .ok s1 bs
  | .pend s1 => .pend s1
  | .fault f => .ok (s.logUe? f.ue) ((List.range n).map fun i => Config.lostByte (2 ^ 60 + agChunkAddr t (off / max 1 (agChunk t)) + i))
  | .stall va => .stall va
  | .stop pa => .stop pa

/-- The live rows of one LDA record. -/
def State.rebuildRec (s : State) (w : Agent) (head : Nat) (r : LdaRec) : XR (List (Nat × RingRow)) :=
  let first := head - r.first
  (s.reread w r.table (72 * first) (72 * (r.rows - first))).bind fun s1 bs =>
    .ok s1 ((List.range (r.rows - first)).map fun i => (r.first + first + i, BitVec.ofNat 576 (natAt bs (72 * i) 72)))

def State.rebuildRing (s : State) (w : Agent) (head : Nat) : List LdaRec → XR (List (Nat × RingRow))
  | [] => .ok s []
  | r :: rs => (s.rebuildRec w head r).bind fun s1 a => (s1.rebuildRing w head rs).bind fun s2 b => .ok s2 (a ++ b)

def State.rebuildBuf (s : State) (w : Agent) : Option (AgImage × Nat) → XR BBuf
  | none => .ok s 0
  | some (t, _) => (s.reread w t 0 18432).bind fun s1 bs => .ok s1 (BitVec.ofNat 147456 (natOf bs))

/-- Rebuilding the ring and both buffers (R158). -/
def State.rebuild (s : State) (w : Agent) (x : Cell) : XR Cell :=
  (s.rebuildRing w x.ringHead x.ldaRecs).bind fun s1 rows =>
    (s1.rebuildBuf w x.bsrc[0]).bind fun s2 b0 =>
      (s2.rebuildBuf w x.bsrc[1]).bind fun s3 b1 => .ok s3 { x with ring := rows, bbuf := ⟨#[b0, b1], rfl⟩ }

/-- Resuming a suspended task on a cell: its stores, the stack area among them, then the ring and the buffers, whose sources may lie in the
stack area (R158, R270). While a peer's bytes or a walk are awaited the task stays SUSPENDED. -/
def State.resumeCell (s : State) (t : Task) (c : Fin 256) (k : Nat) : XR Unit :=
  let y := s.ctxAt t.ctx
  let x := s.loadCell t y k
  let w : Agent := ⟨t.ctx, some c, some t.boxes, seqAgentId c .L 0, 0, y.step, none, 2 ^ 42 + t.stamp⟩
  ((s.loadStores t c y k).rebuild w x).bind fun s1 x1 =>
    let s2 := (s1.loadPage t c y k).setCell c x1
    let s3 := { s2 with clk := { s2.clk with nextId := s2.clk.nextId + 32 } }
    .ok ((((s3.correctSlot y k).dropReads (2 ^ 42 + t.stamp)).freeSlot t.ctx (some k)).setTask { t with state := .running, cell := some c, slot := none }) ()

end Sys2Proof.Machine
end

