-- ==== Sys2Proof/Machine/Post.lean ====
section
/-! DEFINITION. The post sequencer and the dependence graph: frames (R54 to R58), records and boxes (R59 to R63, R78), dependences,
renaming and slices (R64 to R75), launch records and patches (R83 to R85, R284, R285). -/

namespace Sys2Proof.Machine

/-! ### Frames (R54 to R57) -/

/-- The fields of a descriptor (R54). -/
def frameDescOf (d : List Byte) : FrameDesc where
  base := word (natAt d 0 8)
  alt := word (natAt d 8 8)
  ndim := bitsOf (natAt d 16 4) 4 4
  wcode := bitsOf (natAt d 16 4) 0 4
  ext := ⟨#[natAt d 20 2, natAt d 22 2, natAt d 24 2, natAt d 26 2], rfl⟩
  pitch := ⟨#[0, natAt d 28 4, natAt d 32 4, natAt d 36 4], rfl⟩

/-- Bytes from the first element of a frame to the end of its last. -/
def FrameDesc.span (f : FrameDesc) : Nat :=
  f.offset (Vector.ofFn fun i => f.ext[i] - 1) + f.elemBytes

/-- The version-1 span lies in the rename pool of one segment (R55, R88). -/
def Ctx.poolHolds (x : Ctx) (alt span : Nat) : Bool :=
  let o := (alt - x.vbase.toNat) % 2 ^ 26
  decide (x.scratch * 2 ^ 20 ≤ o) && decide (o + span ≤ (x.scratch + x.rename) * 2 ^ 20)

/-- R55, with the descriptor's reserved bytes. -/
def descValid (x : Ctx) (d : List Byte) : Bool :=
  let f := frameDescOf d
  let b := f.elemBytes
  let base := f.base.toNat
  let alt := f.alt.toNat
  natAt d 17 3 == 0 && natAt d 40 24 == 0 && decide (f.wcode ≤ 4) && decide (1 ≤ f.ndim) && decide (f.ndim ≤ 4) &&
  ((List.finRange 4).all fun i => if i.val < f.ndim then f.ext[i] != 0 else f.ext[i] == 0 && f.pitch[i] == 0) &&
  base % b == 0 && alt % b == 0 && ((List.finRange 4).all fun i => f.pitch[i] % b == 0) &&
  (decide (f.ndim < 2) || decide (ceilDiv (f.ext[0] * f.width) 8 ≤ f.pitch[1])) &&
  (decide (f.ndim < 3) || decide (f.pitch[1] * f.ext[1] ≤ f.pitch[2])) &&
  (decide (f.ndim < 4) || decide (f.pitch[2] * f.ext[2] ≤ f.pitch[3])) &&
  (alt == 0 ||
    ((decide (base + f.span ≤ alt) || decide (alt + f.span ≤ base)) && (!x.inWindow alt || x.poolHolds alt f.span)))

def State.frameOf (s : State) (id : Nat) : Option Frame := s.erg.frames.find? (·.id == id)

/-- A frame that a post of the context may name. -/
def State.usable (s : State) (ctx : Fin 64) (id : Nat) : Option Frame :=
  s.erg.frames.find? fun f => f.id == id && !f.freeing && f.ctx == ctx

/-- FRDEF at the post sequencer (R57, R369). -/
def State.defineFrame (s : State) (ctx : Fin 64) (id : Nat) (d : List Byte) : State × Word :=
  if 4095 < id then (s, stBOUNDS)
  else if (s.frameOf id).isSome then (s, stFRAME)
  else if !descValid (s.ctxAt ctx) d then (s, stBOUNDS)
  else ({ s with erg := { s.erg with frames := s.erg.frames ++ [⟨id, ctx, frameDescOf d, 0, false⟩] } }, stOK)

/-- FRFREE at the post sequencer (R57, R369). -/
def State.releaseFrame (s : State) (ctx : Fin 64) (id : Nat) : State × Word :=
  match s.usable ctx id with
  | none => (s, stFRAME)
  | some f =>
    (({ s with erg := { s.erg with frames := s.erg.frames.map fun g => if g.id == id then { g with freeing := true } else g } }
      : State).freeFrames, word f.current)

/-! ### The overlap test (R63) -/

def widen4 (w : Nat) (lo hi : Nat) : Nat × Nat := if w = 4 then (2 * (lo / 2), 2 * ((hi + 1) / 2)) else (lo, hi)

/-- Half-open byte span of a box. -/
def TaskBox.byteSpan (b : TaskBox) : Nat × Nat :=
  (b.vbase + b.desc.offset b.lo, b.vbase + b.desc.offset (Vector.ofFn fun i => b.hi[i] - 1) + b.desc.elemBytes)

def boxOverlap (x y : TaskBox) : Bool :=
  if x.empty || y.empty then false
  else if x.frame = y.frame then
    x.version == y.version &&
    (List.finRange 4).all fun d =>
      let a := if d.val = 0 then widen4 x.desc.width x.lo[d] x.hi[d] else (x.lo[d], x.hi[d])
      let b := if d.val = 0 then widen4 y.desc.width y.lo[d] y.hi[d] else (y.lo[d], y.hi[d])
      decide (a.1 < b.2) && decide (b.1 < a.2)
  else
    decide (x.byteSpan.1 < y.byteSpan.2) && decide (y.byteSpan.1 < x.byteSpan.2)

/-- Two boxes conflict: they overlap, and are not both R or both A (R64). -/
def boxConflict (x y : TaskBox) : Bool :=
  !(x.mode == .R && y.mode == .R) && !(x.mode == .A && y.mode == .A) && boxOverlap x y

/-! ### Records (R59, R60, R78) -/

def kindOf : Nat → Option TaskKind
  | 0 => some .cell | 1 => some .copy | 2 => some .xpose | 3 => some .nmv | 4 => some .coll
  | _ => none

def modeOf : Nat → Option BoxMode
  | 0 => some .R | 1 => some .W | 2 => some .RW | 3 => some .A | 4 => some .WOV
  | _ => none

def fourOf (f : Nat → Nat) : Vector Nat 4 := Vector.ofFn fun i => f i.val

/-- The limits of R60 on one box against its frame's descriptor. -/
def boxFits (f : FrameDesc) (mode : BoxMode) (lo hi : Vector Nat 4) : Bool :=
  (List.finRange 4).all fun d =>
    if d.val < f.ndim then
      decide (lo[d] ≤ hi[d]) && decide (hi[d] ≤ f.ext[d]) && (mode != .WOV || (lo[d] == 0 && hi[d] == f.ext[d]))
    else lo[d] == 0 && decide (hi[d] ≤ 1)

/-- One box slot of a record: its mode and frame, its intervals. None for a reserved code or bit. -/
def boxOf (r : List Byte) (i : Nat) : Option (BoxMode × Nat × Vector Nat 4 × Vector Nat 4) :=
  let o := 0x60 + 20 * i
  let w := natAt r o 4
  if bitsOf w 15 17 != 0 then none
  else (modeOf (bitsOf w 12 3)).map fun m =>
    (m, bitsOf w 0 12, fourOf fun d => natAt r (o + 4 + 4 * d) 2, fourOf fun d => natAt r (o + 6 + 4 * d) 2)

/-- Judging the boxes: a broken limit, else whether every frame may be named, with the boxes bound to version 0. -/
def State.boxesOf (s : State) (ctx : Fin 64) (r : List Byte) : List Nat → Option (Bool × List TaskBox)
  | [] => some (true, [])
  | i :: is =>
    match boxOf r i with
    | none => none
    | some (m, id, lo, hi) =>
      match s.usable ctx id with
      | none => (s.boxesOf ctx r is).map fun p => (false, p.2)
      | some f =>
        if !boxFits f.desc m lo hi then none
        else
          let lo1 := Vector.ofFn fun d => if d.val < f.desc.ndim then lo[d] else 0
          let hi1 := Vector.ofFn fun d => if d.val < f.desc.ndim then hi[d] else 1
          (s.boxesOf ctx r is).map fun p => (p.1, ⟨m, id, f.desc, 0, lo1, hi1⟩ :: p.2)

/-- PLACE of a CELL task (R78). -/
def placeValid (p : Nat) : Bool := decide (p ≤ 255) || (decide (0x100 ≤ p) && decide (p ≤ 0x10F)) || p == 0x1FF

/-- The fixed fields of a record (R78). -/
def recordFits (r : List Byte) : Bool :=
  let w := natAt r 0 4
  let a := natAt r 4 4
  let kind := bitsOf w 0 4
  let nbox := bitsOf w 20 4
  let cflag := natAt r 0x10 8
  bitsOf w 24 8 == 0 && bitsOf w 17 3 == 0 && bitsOf w 6 2 == 0 && decide (kind ≤ 4) && decide (nbox ≤ 8) &&
  bitsOf a 28 4 == 0 && bitsOf a 12 4 == 0 && (cflag == 0 || (inAperture cflag && cflag % 4 == 0)) &&
  (if kind = 0 then
    placeValid (bitsOf w 8 9) && decide (bitsOf a 0 12 ≤ bitsOf a 16 12) && decide (bitsOf a 16 12 ≤ 2048) &&
    natAt r 8 8 % 4 == 0 && natAt r 0x1E 2 == 0 && natAt r 0x50 16 == 0
  else decide (1 ≤ nbox))

/-! ### Engine payloads (R160, R242, R350, R434, R436) -/

/-- Byte `b` of a 64-byte image: bits `lo + n - 1 : lo` from there. -/
def imgField (t : AgImage) (b lo n : Nat) : Nat := bitsOf t.toNat (8 * b + lo) n

/-- The fields of R160 in a task of `nbox` boxes. -/
def nmvValid (d : AgImage) (nbox : Nat) : Bool :=
  let c := imgField d 0x18
  let e := imgField d 0x20
  imgField d 0 0 64 % 4096 == 0 && imgField d 0x10 0 64 % 4 == 0 && c 61 3 == 0 && c 49 3 == 0 &&
  (c 56 4 == 8 || c 56 4 == 9 || c 56 4 == 11) && (c 52 4 == 8 || c 52 4 == 9 || c 52 4 == 14 || c 52 4 == 15) &&
  decide (1 ≤ c 32 17) && decide (c 32 17 ≤ 65536) && decide (1 ≤ c 0 32) && decide (c 0 32 ≤ 16777216) &&
  e 11 53 == 0 && e 7 1 == 0 && e 3 1 == 0 && imgField d 0x28 0 192 == 0 &&
  decide (e 8 3 < nbox) && decide (e 4 3 < nbox) && decide (e 0 3 < nbox)

/-- The fields of R242; an armed entry needs a trigger flag and the others need none. -/
def collValid (d : AgImage) (armed : Bool) : Bool :=
  let w := imgField d 0x30
  imgField d 0 0 64 % 512 == 0 && imgField d 8 0 64 % 2 == 0 && imgField d 0x10 0 64 % 16 == 0 &&
  imgField d 0x18 0 64 % 16 == 0 && imgField d 0x20 0 64 % 16 == 0 && w 61 3 == 0 && w 45 3 == 0 &&
  decide (1 ≤ w 32 13) && decide (w 32 13 ≤ 4096) && decide (w 48 13 < w 32 13) && (w 0 16 != 0) == armed

/-- The parameter of R434: b, R and C. -/
def xposeParam (p : Word) : Option (Nat × Nat × Nat) :=
  if field p 34 30 != 0 || field p 0 16 = 0 || field p 16 16 = 0 then none
  else some (2 ^ field p 32 2, field p 0 16, field p 16 16)

/-- A table that the post sequencer reads under the poster's context (R350). -/
def State.readTable (s : State) (ctx : Fin 64) (reader va : Nat) : XR AgImage :=
  let w : Agent := ⟨ctx, none, none, 0, 0, (s.ctxAt ctx).step, none, reader⟩
  (s.readBytes w none va 64).bind fun s1 bs => .ok s1 (BitVec.ofNat 512 (natOf bs))

/-- What reading a payload gives: the two tables, a refusal with BOUNDS, or bytes of a peer still awaited. -/
inductive Payload where
  | tables (s : State) (src dst : AgImage)
  | bounds
  | pend (s : State)

/-- The payload of a record under its kind. -/
def State.payloadOf (s : State) (ctx : Fin 64) (reader : Nat) (kind : TaskKind) (nbox : Nat) (p : AgImage) : Payload :=
  match kind with
  | .cell => .tables s 0 0
  | .nmv => if nmvValid p nbox then .tables s 0 0 else .bounds
  | .coll => if collValid p false then .tables s 0 0 else .bounds
  | .copy | .xpose =>
    let rest := if kind == TaskKind.copy then imgField p 0x10 0 384 else imgField p 0x18 0 320
    let a := imgField p 0 0 64
    let b := imgField p 8 0 64
    if rest != 0 || a % 64 != 0 || b % 64 != 0 then .bounds
    else
      match ((s.readTable ctx reader a).bind fun s1 t => (s1.readTable ctx reader b).bind fun s2 u => .ok s2 (t, u)) with
      | .pend s1 => .pend s1
      | .fault _ => .bounds
      | .stall _ => .pend s
      | .stop _ => .bounds
      | .ok s1 (t, u) =>
        if !agValid t nbox || !agValid u nbox || agBytes t != agBytes u || 2 ^ 32 ≤ agBytes t then .bounds
        else if kind == TaskKind.copy then .tables s1 t u
        else
          match xposeParam (word (imgField p 0x10 0 64)) with
          | some (b, r, c) => if agBytes t = r * c * b then .tables s1 t u else .bounds
          | none => .bounds

/-! ### Slices, bindings, dependences (R64, R66, R74) -/

/-- Distinct entries of a list, first occurrences kept. -/
def distinct : List Nat → List Nat
  | [] => []
  | x :: xs => x :: (distinct xs).filter (· != x)

def slicesOf (boxes : List TaskBox) (place stamp : Nat) : List Nat :=
  match boxes with
  | [] => [if place < 256 then place / 16 else if place = 0x1FF then stamp % 16 else place % 16]
  | _ => distinct (boxes.map fun b => b.frame / 256)

/-- Erg entries that a context holds (R73). -/
def State.entriesOf (s : State) (ctx : Fin 64) : Nat :=
  (s.erg.tasks.filter (·.ctx == ctx)).foldl (fun a t => a + t.slices.length) 0

def State.sliceFull (s : State) (n : Nat) : Bool :=
  decide (256 ≤ (s.erg.tasks.filter fun t => t.slices.contains n).length)

/-- `Bind` of R66 for one frame: the version of a new task's boxes on it, and whether the frame is renamed. -/
def State.bindFrame (s : State) (f : Frame) (mine : List TaskBox) : Nat :=
  let inFlight := s.erg.tasks.flatMap (·.boxes)
  let c := f.current
  let conflicts := mine.any fun t => inFlight.any fun e => e.frame == f.id && e.version == c && boxConflict { t with version := c } e
  if f.desc.alt != 0 && conflicts && (mine.all fun t => t.mode == .WOV) &&
      !(inFlight.any fun e => e.frame == f.id && e.version == 1 - c) then 1 - c
  else c

/-- The current version moves to the one that a new task's boxes are bound to. -/
def Frame.follow (f : Frame) (bound : List TaskBox) : Frame :=
  match bound.find? (fun b => b.frame == f.id) with
  | some b => { f with current := b.version }
  | none => f

/-- Binding every box, and moving the current version of each renamed frame (R66). -/
def State.bindAll (s : State) (boxes : List TaskBox) : State × List TaskBox :=
  let bound := boxes.map fun b =>
    match s.frameOf b.frame with
    | some f => { b with version := s.bindFrame f (boxes.filter fun x => x.frame == b.frame) }
    | none => b
  ({ s with erg := { s.erg with frames := s.erg.frames.map fun f => f.follow bound } }, bound)

/-- Stamps of the tasks in flight of the context on which a new task depends (R64). -/
def State.predsOf (s : State) (ctx : Fin 64) (boxes : List TaskBox) : List Nat :=
  (s.erg.tasks.filter fun e => e.ctx == ctx && boxes.any fun t => e.boxes.any fun b => boxConflict t b).map (·.stamp)

/-! ### Posting one record (R69, R71) -/

/-- What a record's post gives. -/
inductive Posted where
  | accepted (s : State) (stamp : Nat)
  | refused (st : Word)
  | pend (s : State)

def argsOf (r : List Byte) : Vector Word 6 := Vector.ofFn fun i => word (natAt r (0x20 + 8 * i.val) 8)

/-- Entering an accepted task: its stamp, bindings and dependences. -/
def State.enterTask (s : State) (ctx : Fin 64) (r : List Byte) (kind : TaskKind) (boxes : List TaskBox) (tabS tabD : AgImage)
    (launch : Option Nat) : State :=
  let stamp := s.erg.nextStamp
  let w := natAt r 0 4
  let a := natAt r 4 4
  let (s1, bound) := s.bindAll boxes
  let preds := s1.predsOf ctx bound
  let slices := slicesOf bound (bitsOf w 8 9) stamp
  let t : Task :=
    { stamp := stamp, ctx := ctx, kind := kind, place := bitsOf w 8 9, prio := bitsOf w 4 2, cls := bitsOf w 4 2
      accFirst := if kind == TaskKind.cell then bitsOf a 0 12 else 0
      accEnd := if kind == TaskKind.cell then bitsOf a 16 12 else 0
      body := word (natAt r 8 8), cflag := word (natAt r 0x10 8), tokens := BitVec.ofNat 48 (natAt r 0x18 6)
      args := argsOf r, payload := BitVec.ofNat 512 (natAt r 0x20 64), tabS := tabS, tabD := tabD, boxes := bound
      slices := slices, primary := slices.headD 0, preds := preds
      state := if preds.isEmpty then .ready else .posted
      cell := none, readySince := s.clk.cycle.toNat, claim := none, launch := launch, slot := none, req := none
      pageObjs := [], watchdog := 0 }
  { s1 with erg := { s1.erg with
      tasks := s1.erg.tasks ++ [t], nextStamp := stamp + 1, issuers := smSet 0 stamp (ctx.val + 1) s1.erg.issuers } }

/-- The checks of R69 in order, then the acceptance. -/
def State.postRecord (s : State) (ctx : Fin 64) (reader : Nat) (r : List Byte) (launch : Option Nat) : Posted :=
  let w := natAt r 0 4
  let nbox := bitsOf w 20 4
  match kindOf (bitsOf w 0 4) with
  | none => .refused stBOUNDS
  | some kind =>
    if !recordFits r then .refused stBOUNDS
    else
      match s.boxesOf ctx r (List.range nbox) with
      | none => .refused stBOUNDS
      | some (framesOk, boxes) =>
        match s.payloadOf ctx reader kind nbox (BitVec.ofNat 512 (natAt r 0x20 64)) with
        | .bounds => .refused stBOUNDS
        | .pend s1 => .pend s1
        | .tables s1 tabS tabD =>
          let slices := slicesOf boxes (bitsOf w 8 9) s.erg.nextStamp
          if !framesOk then .refused stFRAME
          else if (s.ctxAt ctx).equota < s.entriesOf ctx + slices.length then .refused stQUOTA
          else if slices.any s.sliceFull then .refused stFULL
          else .accepted (s1.enterTask ctx r kind boxes tabS tabD launch) s.erg.nextStamp

/-! ### Launch records (R83 to R85, R284, R285) -/

/-- Bytes of scheduler memory as the post sequencer and the launch queues read them. What they take from a granule with a double-bit
error, R106 and R107 do not say. DESIGN CHOICE (assumption log 11). -/
def State.readSched (s : State) (k n : Nat) : List Byte :=
  (List.range n).map fun i => if s.isBad (k + i) then Config.lostByte (k + i) else s.readKey (k + i)

/-- What reading `n` bytes of scheduler memory leaves: single-bit errors are corrected, and each granule with a double-bit error is found
(R106, R109). -/
def State.checkSched (s : State) (k n : Nat) : State :=
  let keys := (List.range n).map (k + ·)
  let s1 := s.correct keys
  (s1.mem.bad.filter fun g => keys.any fun i => i / 8 == g && s1.isBad i).foldl (fun (u : State) g => u.logUe? (ueOf (g * 8))) s1

/-- Launch record `i` of a context: its address in scheduler memory. -/
def Ctx.launchKey (x : Ctx) (i : Nat) : Nat := schedKey (x.lbase * 65536 + 64 * i)

/-- NROOT and ROOTS of a record that VALID, NROOT and ROOTS allow (R83, R377). -/
def State.launchHead (s : State) (ctx : Fin 64) (i : Nat) : Option (Nat × Nat) :=
  let k := (s.ctxAt ctx).launchKey i
  let w := natOf (s.readSched k 8)
  let roots := natOf (s.readSched (k + 8) 8)
  let n := bitsOf w 0 7
  if bitsOf w 16 1 = 0 || n < 1 || 64 < n || roots % 256 != 0 || 2 ^ 26 < roots + 256 * n then none else some (n, roots)

/-- The reserved fields of a record that arming also judges (R84). -/
def State.launchClean (s : State) (ctx : Fin 64) (i : Nat) : Bool :=
  let k := (s.ctxAt ctx).launchKey i
  let w := natOf (s.readSched k 8)
  bitsOf w 17 47 == 0 && bitsOf w 7 9 == 0 && natOf (s.readSched (k + 16) 48) == 0

/-- What arming a block gives: the stamps of its roots. -/
inductive Armed where
  | accepted (s : State) (stamps : List Nat)
  | refused (st : Word)
  | pend (s : State)

/-- Posting roots in list order, as one block (R84). -/
def State.postRoots (s : State) (ctx : Fin 64) (reader index : Nat) : List Nat → Armed
  | [] => .accepted s []
  | o :: os =>
    match s.postRecord ctx reader (s.readSched (schedKey o) 256) (some index) with
    | .refused st => .refused st
    | .pend s1 => .pend s1
    | .accepted s1 stamp =>
      match s1.postRoots ctx reader index os with
      | .accepted s2 l => .accepted s2 (stamp :: l)
      | .refused st => .refused st
      | .pend s2 => .pend s2

def rootOffsets (n roots : Nat) : List Nat := (List.range n).map fun j => roots + 256 * j

/-- What is left of an attempt that waits: its read requests and its walks. -/
def State.keepRequests (s s1 : State) : State := { s with agenda := s1.agenda, fab := s1.fab, clk := s1.clk, mem := { s.mem with walks := s1.mem.walks } }

/-- What an arming reads: its record, and its roots where the record names them. -/
def State.checkArm (s : State) (ctx : Fin 64) (index : Nat) : State :=
  if 1023 < index then s
  else
    let s1 := s.checkSched ((s.ctxAt ctx).launchKey index) 64
    match s1.launchHead ctx index with
    | none => s1
    | some (n, roots) => s1.checkSched (schedKey roots) (256 * n)

/-- What reading a patch list reads: its count, then its entries. -/
def State.checkPatches (s : State) (plist : Nat) : State :=
  if plist = 0 || 2 ^ 26 < plist + 1024 then s
  else
    let s1 := s.checkSched (schedKey plist) 8
    s1.checkSched (schedKey (plist + 16)) (16 * (natOf (s1.readSched (schedKey plist) 8) % 64))

/-- LARM (R84): a block that is still waiting for a peer's bytes keeps only its requests. -/
def State.armRecord (s : State) (ctx : Fin 64) (reader index : Nat) : Armed :=
  if 1023 < index then .refused stBOUNDS
  else
    match s.launchHead ctx index with
    | none => .refused stBOUNDS
    | some (n, roots) =>
      if !s.launchClean ctx index then .refused stBOUNDS
      else
        match s.postRoots ctx reader index (rootOffsets n roots) with
        | .pend s1 => .pend (s.keepRequests s1)
        | r => r

/-- A cell on which no task runs and to which no suspended task is pinned (R284). -/
def State.cellFree (s : State) (c : Fin 256) : Bool :=
  (s.cellAt c).task.isNone && !(s.erg.tasks.any fun t => t.state == TaskState.suspended && t.place == c.val)

/-- The free cells of the clusters of a mask. -/
def State.freeCells (s : State) (mask : BitVec 16) : Nat :=
  ((List.finRange 256).filter fun c => mask.getLsbD (clusterOf c).val && s.cellFree c).length

/-- Claims outstanding on the clusters of a mask. -/
def State.claims (s : State) (mask : BitVec 16) : Nat :=
  (s.erg.tasks.filter fun t => match t.claim with | some m => (m &&& mask) != 0 | none => false).length

/-- PLACE lies inside CMASK. An engine root names no place. -/
def placeInside (t : Task) (mask : BitVec 16) : Bool :=
  if t.kind != .cell then true
  else if t.place < 256 then mask.getLsbD (t.place / 16)
  else if t.place = 0x1FF then mask == BitVec.allOnes 16
  else mask.getLsbD (t.place % 16)

/-- The conditions of R284 on the roots of a block that has just been posted, before whose state is `s`. -/
def boundedOk (s posted : State) (mask : BitVec 16) (stamps : List Nat) : Bool :=
  let roots := posted.erg.tasks.filter fun t => stamps.contains t.stamp
  (roots.all fun t => placeInside t mask && t.preds.isEmpty) && decide (stamps.length + s.claims mask ≤ s.freeCells mask)

def Task.claimed (t : Task) (mask : BitVec 16) (stamps : List Nat) : Task :=
  if stamps.contains t.stamp then { t with cls := 3, claim := some mask } else t

/-- Raising the roots of an accepted bounded launch to class 3, each with its claim (R284). -/
def State.claimRoots (s : State) (mask : BitVec 16) (stamps : List Nat) : State :=
  { s with erg := { s.erg with tasks := s.erg.tasks.map fun t => t.claimed mask stamps } }

/-- The entries of a patch list: root, word and value; none where a limit breaks (R285). -/
def State.patchList (s : State) (plist nroot : Nat) : Option (List (Nat × Nat × Nat)) :=
  let n := natOf (s.readSched (schedKey plist) 8)
  if 63 < n then none
  else
    (List.range n).mapM fun e =>
      let k := schedKey (plist + 16 * (e + 1))
      let w := natOf (s.readSched k 8)
      if bitsOf w 6 2 != 0 || bitsOf w 11 53 != 0 || nroot ≤ bitsOf w 0 6 then none
      else some (bitsOf w 0 6, bitsOf w 8 3, natOf (s.readSched (k + 8) 8))

/-- Writing one word of a root (R85). -/
def State.patchRoot (s : State) (roots j k v : Nat) : State :=
  s.writePlain (schedKey (roots + 256 * j + 0x20 + 8 * k)) (bytesOf 8 v)

/-- The patch list of a LAUNCH or a TRIGGER: applied whole, or none where it breaks a limit (R285). -/
def State.applyPatches (s : State) (ctx : Fin 64) (index plist : Nat) : Option State :=
  if plist = 0 then some s
  else if 2 ^ 26 < plist + 1024 then none
  else
    (s.launchHead ctx index).bind fun h =>
      (s.patchList plist h.1).map fun l => l.foldl (fun (t : State) p => t.patchRoot h.2 p.1 p.2.1 p.2.2) s

/-- `LpatchExec` of R377. -/
def State.lpatch (s : State) (ctx : Fin 64) (x v : Word) : State × Word :=
  if field x 27 37 != 0 || field x 22 2 != 0 || field x 10 6 != 0 then (s, stBOUNDS)
  else
    match s.launchHead ctx (field x 0 10) with
    | none => (s, stBOUNDS)
    | some (n, roots) =>
      if n ≤ field x 16 6 then (s, stBOUNDS)
      else (s.patchRoot roots (field x 16 6) (field x 24 3) v.toNat, stOK)

/-- A launch of the host, with its patches and, on a bounded queue, the mask (R284, R285). -/
def State.hostLaunch (s : State) (ctx : Fin 64) (reader index plist : Nat) (bounded : Option (BitVec 16)) : Armed ⊕ (State × Word) :=
  match s.applyPatches ctx index plist with
  | none => .inr (s, stBOUNDS)
  | some s1 =>
    match s1.armRecord ctx reader index with
    | .refused st => .inr (s1, st)
    | .pend s2 => .inl (.pend s2)
    | .accepted s2 stamps =>
      match bounded with
      | none => .inl (.accepted s2 stamps)
      | some mask =>
        if boundedOk s1 s2 mask stamps then .inl (.accepted (s2.claimRoots mask stamps) stamps) else .inr (s1, stBUSY)

end Sys2Proof.Machine
end

