-- ==== Sys2Proof/Machine/Erg.lean ====
section
/-! DEFINITION. The Erg at work: the post sequencer takes an operation (R57, R69, R72), tasks are released to cells and engines (R76,
R77, R49), retire (R43), and leave their cell after an abort (R44); posts from peers (R81, R82). -/

namespace Sys2Proof.Machine

open Host (Outcome)

/-! ### Results of post-sequencer operations -/

/-- The sequencer waits for the operation with this number. -/
def Seq.awaits (y : Seq) (id : Nat) : Bool :=
  match y.status with
  | .waiting (.post i) => i == id
  | _ => false

/-- Handing a result to whoever asked. -/
def State.deliver (s : State) (p : PostReq) (v : Word) : State :=
  let s1 := { s with erg := { s.erg with posts := s.erg.posts.filter fun x => x.id != p.id } }
  match p.src with
  | .seq c q d => if (s1.seqAt c q).awaits p.id then s1.onSeq c q fun t => (t.setG d v).advance 4 else s1
  | .host q => s1.hostComplete q false v
  | .trigger q => s1.hostComplete q true v
  | .remote src _ id => s1.send! (s1.ctxAt p.ctx) .response src 0 (.postAnswer id v)

/-- Queueing an operation behind those that came before. -/
def State.enqueuePost (s : State) (src : PostFrom) (ctx : Fin 64) (op : PostOp) (wait : Bool) (bound : Nat) : State :=
  let p : PostReq := ⟨s.clk.nextId, src, ctx, op, wait, s.clk.cycle.toNat, bound, true, none, 0, [], none⟩
  { s.bump with erg := { s.erg with posts := s.erg.posts ++ [p] } }

/-- What an attempt at an operation leaves. -/
inductive Attempt where
  | done (s : State) (v : Word)
  | pend (s : State)

/-- CMASK of the bounded queue that asked, if one did (R284). -/
def State.boundedMask (s : State) (src : PostFrom) : Option (BitVec 16) :=
  match src with
  | .host q | .trigger q => if s.host.queues[q].bounded then some s.host.queues[q].cmask else none
  | .seq .. | .remote .. => none

def Armed.attempt : Armed → State → Attempt
  | .accepted s l, _ => .done s (word (l.headD 0))
  | .refused st, s0 => .done s0 st
  | .pend s, _ => .pend s

/-- One attempt at the operation (R57, R69, R84, R85, R285). -/
def State.attempt (s : State) (p : PostReq) : Attempt :=
  let reader := 2 ^ 41 + p.id
  match p.op with
  | .task r =>
    match s.postRecord p.ctx reader r none with
    | .accepted s1 stamp => .done s1 (word stamp)
    | .refused st => .done s st
    | .pend s1 => .pend s1
  | .frdef id d => .done (s.defineFrame p.ctx id d).1 (s.defineFrame p.ctx id d).2
  | .frfree id => .done (s.releaseFrame p.ctx id).1 (s.releaseFrame p.ctx id).2
  | .larm i =>
    let s0 := s.checkArm p.ctx i
    (s0.armRecord p.ctx reader i).attempt s0
  | .lpatch x v =>
    let s0 := s.checkSched ((s.ctxAt p.ctx).launchKey (field x 0 10)) 16
    .done (s0.lpatch p.ctx x v).1 (s0.lpatch p.ctx x v).2
  | .launch i plist =>
    let s0 := (s.checkPatches plist).checkArm p.ctx i
    match s0.hostLaunch p.ctx reader i plist (s.boundedMask p.src) with
    | .inl a => a.attempt s0
    | .inr (s1, st) => .done s1 st

/-- A result that a waiting post repeats (R72). -/
def PostReq.repeats (p : PostReq) (v : Word) (now : Nat) : Bool :=
  p.wait && (v == stFULL || v == stQUOTA) && decide (now - p.issued < p.bound)

/-- A waiting post after an attempt, with the tasks that were in flight then. -/
def PostReq.noted (p : PostReq) (id : Nat) (v : Word) (now : Nat) (inFlight : List Nat) : PostReq :=
  if p.id == id then { p with queued := false, last := some v, lastAt := now, inFlight := inFlight, freedAt := none } else p

/-- The post sequencer takes the oldest operation of its queue (R57, R69). -/
def execPostSequencerTake (s : State) : Outcome State Fault Refusal :=
  match s.erg.posts.find? (·.queued) with
  | none => .next s
  | some p =>
    let now := s.clk.cycle.toNat
    match s.attempt p with
    | .pend s1 => .next s1
    | .done s1 v =>
      if p.repeats v now then
        let s1 := s1.dropReads (2 ^ 41 + p.id)
        .next { s1 with erg := { s1.erg with posts := s1.erg.posts.map fun x => x.noted p.id v now (s1.erg.tasks.map (·.stamp)) } }
      else .next ((s1.dropReads (2 ^ 41 + p.id)).deliver p v)

/-- A waiting post stands in the queue again (R72). -/
def execPostRetry (post : Nat) (s : State) : Outcome State Fault Refusal :=
  match s.erg.posts.find? (fun p => p.id == post && !p.queued) with
  | none => .next s
  | some p =>
    .next { s with erg := { s.erg with posts := (s.erg.posts.filter fun x => x.id != post) ++ [{ p with queued := true }] } }

/-- WINTMO has passed since a TPOST.wait issued: its last result is written (R72). -/
def execTpostWaitExpiry (post : Nat) (s : State) : Outcome State Fault Refusal :=
  match s.erg.posts.find? (fun p => p.id == post) with
  | none => .next s
  | some p =>
    match p.last with
    | some v => if p.wait && decide (p.bound ≤ s.clk.cycle.toNat - p.issued) then .next (s.deliver p v) else .next s
    | none => .next s

/-! ### Release and placement (R49, R76, R77, R284) -/

/-- Release order: the higher class first, then the lower stamp. -/
def Task.before (a b : Task) : Bool := decide (b.cls < a.cls) || (a.cls == b.cls && decide (a.stamp < b.stamp))

def insertTask (t : Task) : List Task → List Task
  | [] => [t]
  | x :: xs => if t.before x then t :: x :: xs else x :: insertTask t xs

/-- Tasks that compete for release, in release order. -/
def State.contenders (s : State) : List Task :=
  (s.erg.tasks.filter fun t => t.state == TaskState.ready || t.state == TaskState.suspended).foldl (fun l t => insertTask t l) []

/-- No start here would take a cell that outstanding claims need; a cell that is not free for the check leaves as many as before (R284). -/
def State.claimsAllow (s : State) (t : Task) (c : Fin 256) : Bool :=
  t.claim.isSome || !s.cellFree c || s.erg.tasks.all fun u =>
    match u.claim with
    | some m => !m.getLsbD (clusterOf c).val || decide (s.claims m + 1 ≤ s.freeCells m)
    | none => true

/-- The Erg starts no task in a cluster that W3 restarts, or whose controller a hand-over replaces now (R272, R290). -/
def State.clusterShut (s : State) (n : Fin 16) : Bool :=
  s.erg.quiet.getLsbD n.val || (s.mgmt.fw.handover.isSome && s.mgmt.fw.replaced == n.val)

/-- A cell on which the Erg may start the task now: it is empty, and its cluster is open and has had no start in this mc (R76). -/
def State.cellOpen (s : State) (used : List (Fin 16)) (t : Task) (c : Fin 256) : Bool :=
  (s.cellAt c).task.isNone && !s.clusterShut (clusterOf c) && !used.contains (clusterOf c) && s.claimsAllow t c

/-- The first open cell of a cluster from its rotating pointer on. -/
def State.pickIn (s : State) (used : List (Fin 16)) (t : Task) (n : Fin 16) : Option (Fin 256) :=
  (List.range 16).findSome? fun i =>
    let c : Fin 256 := Fin.ofNat 256 (n.val * 16 + (s.erg.ptrN[n].toNat + i) % 16)
    if s.cellOpen used t c then some c else none

def State.turnN (s : State) (c : Fin 256) : State :=
  { s with erg := { s.erg with ptrN := s.erg.ptrN.set (clusterOf c) (BitVec.ofNat 4 (localIx c + 1)) } }

def State.turnQ (s : State) (c : Fin 256) : State :=
  { s with erg := { s.erg with ptrQ := BitVec.ofNat 4 ((clusterOf c).val + 1) } }

/-- The cell of R76 for a task's place, and the pointers after the choice. -/
def State.place (s : State) (used : List (Fin 16)) (t : Task) : Option (State × Fin 256) :=
  if t.place < 256 then
    let c : Fin 256 := Fin.ofNat 256 t.place
    if s.cellOpen used t c then some (s, c) else none
  else if t.place = 0x1FF then
    ((List.range 16).findSome? fun i => s.pickIn used t (Fin.ofNat 16 (s.erg.ptrQ.toNat + i))).map fun c => ((s.turnN c).turnQ c, c)
  else (s.pickIn used t (Fin.ofNat 16 t.place)).map fun c => (s.turnN c, c)

def kindEng : TaskKind → Eng
  | .cell => .copy | .copy => .copy | .xpose => .xpose | .nmv => .nmv | .coll => .coll

/-- Commands that wait in an engine's queue. -/
def State.queueLen (s : State) (e : Eng) (u : Nat) : Nat :=
  (s.cmds.filter fun m => m.eng == e && m.unit == u && (m.state == .queued || m.state == .guarded)).length

/-- A table of an engine task with its slot's base added (R67). -/
def absTable (t : AgImage) (boxes : List TaskBox) : AgImage :=
  if agRel t then
    let base := (word (agBase t) + fbaseOf boxes (agSlot t)).toNat
    BitVec.ofNat 512 (putBits (putBits t.toNat 0 64 base) 84 1 0)
  else t

def Task.op (t : Task) : CmdOp :=
  match t.kind with
  | .cell => .cpy 0 0
  | .copy => .cpy (absTable t.tabD t.boxes) (absTable t.tabS t.boxes)
  | .xpose => .xpose (absTable t.tabD t.boxes) (absTable t.tabS t.boxes) (word (imgField t.payload 0x10 0 64))
  | .nmv => .nmv t.payload none
  | .coll => .coll t.payload

/-- An engine task enters its engine's queue (R77). -/
def State.startEngine (s : State) (t : Task) : State :=
  let m : Cmd :=
    { id := s.clk.nextId, eng := kindEng t.kind, unit := t.primary / 8, owner := .task t.stamp, stamp := t.stamp, ctx := t.ctx
      stream := 0, guard := 0, gives := 0, step := (s.ctxAt t.ctx).step, boxes := t.boxes, op := t.op, state := .queued, prog := 0
      stalled := 0 }
  ({ s.bump with cmds := s.cmds ++ [m] }).setTask { t with state := .running, claim := none }

/-- Sending or withdrawing this device's absence token: the seal-tree root and the home of every pod barrier are one member (R209,
R226, R237). -/
def State.sendToken (s : State) (ctx : Fin 64) (away : Bool) : State :=
  let x := s.ctxAt ctx
  (s.setCtx ctx { x with tokenOut := away }).send! x .request x.home 0 (.absence x.rank away)

/-- The first task placed after a switch back in withdraws the token (R271). -/
def State.placed (s : State) (ctx : Fin 64) : State := if (s.ctxAt ctx).tokenOut then s.sendToken ctx false else s

/-- What the Erg does with one task: it starts or resumes it, on a cell or in an engine's queue, it keeps the requests of a resume that
waits for bytes or a walk, or it passes the task over. -/
inductive Release where
  | onCell (s : State) (c : Fin 256)
  | inQueue (s : State)
  | waits (s : State)
  | passed

/-- One task in its turn (R76, R77, R270). -/
def State.tryRelease (s : State) (used : List (Fin 16)) (t : Task) : Release :=
  if (s.ctxAt t.ctx).switchedOut then .passed
  else if t.kind != .cell then
    if s.queueLen (kindEng t.kind) (t.primary / 8) < 16 then .inQueue (s.startEngine t) else .passed
  else
    match s.place used t with
    | none => .passed
    | some (s1, c) =>
      match t.slot with
      | none => .onCell (s1.startCell t c) c
      | some k =>
        match s1.resumeCell t c k with
        | .ok s2 _ => .onCell s2 c
        | .pend s2 => .waits (s.keepRequests s2)
        | .fault _ | .stall _ | .stop _ => .passed

/-- One task of the release order, with the clusters that have had their start of this mc. -/
def releaseOne (a : State × List (Fin 16)) (t : Task) : State × List (Fin 16) :=
  match a.1.tryRelease a.2 t with
  | .onCell s c => (s.placed t.ctx, clusterOf c :: a.2)
  | .inQueue s => (s.placed t.ctx, a.2)
  | .waits s => (s, a.2)
  | .passed => a

/-- The tasks that compete are taken in release order; one that is not eligible is passed over (R76). -/
def execErgRelease (s : State) : Outcome State Fault Refusal := .next (s.contenders.foldl releaseOne (s, [])).1

/-- A task that has stayed READY for 65,536 mc rises by one class (R49). -/
def execReadyClassRaise (stamp : Nat) (s : State) : Outcome State Fault Refusal :=
  match s.taskOf stamp with
  | none => .next s
  | some t =>
    if t.state == TaskState.ready && decide (t.cls < 3) && decide (65536 ≤ s.clk.cycle.toNat - t.readySince) then
      .next (s.setTask { t with cls := t.cls + 1, readySince := s.clk.cycle.toNat })
    else .next s

/-! ### Retirement and the end of an aborted task (R43, R44) -/

/-- Every command and every write of a task is done. -/
def State.taskQuiet (s : State) (t : Task) : Bool :=
  !(s.cmds.any fun m => m.stamp == t.stamp) && match t.cell with
    | some c => !(s.mem.pend.any fun p => p.cell == c)
    | none => true

/-- Retirement releases the writes, adds 1 to the completion flag and frees the entries, the cell and the dependents (R43, R48). -/
def State.retire (s : State) (t : Task) : State :=
  let s1 := (s.leaveErg t 1).readyDependents t.stamp
  match t.cell with
  | some c => s1.clearCell c
  | none => s1

def execTaskRetire (stamp : Nat) (s : State) : Outcome State Fault Refusal :=
  match s.taskOf stamp with
  | none => .next s
  | some t => if t.state == TaskState.ending && s.taskQuiet t then .next (s.retire t) else .next s

/-- The commands of an aborted task that had started are complete: its cell is free (R44). -/
def execAbortedCellFree (stamp : Nat) (s : State) : Outcome State Fault Refusal :=
  match (List.finRange 256).find? (fun c => (s.cellAt c).task == some stamp) with
  | some c => if (s.taskOf stamp).isNone && !s.hasStarted stamp then .next (s.clearCell c) else .next s
  | none => .next s

/-! ### Posts from peers (R81, R82, R418) -/

/-- A response to a peer whose job no context here holds (R286). -/
def State.answerBack (s : State) (p : Packet) (b : Body) : State :=
  s.sendOrHold { p with cls := .response, src := p.dst, dst := p.src, hops := 0, body := b }

/-- A TPOSTX arrives: it is queued in the context the job maps, or refused where none holds the job (R286). -/
def execRemotePostArrival (p : Packet) (s : State) : Outcome State Fault Refusal :=
  match p.body with
  | .post id wait r =>
    .next (s.once p fun u =>
      match u.ctxOfJob p.job with
      | some ctx => u.enqueuePost (.remote p.src p.job id) ctx (.task r) wait (u.ctxAt ctx).wdef.toNat
      | none => u.answerBack p (.postAnswer id stUNREACHABLE))
  | _ => .next s

def State.dropRemote (s : State) (id : Nat) : State :=
  { s with fab := { s.fab with remotes := s.fab.remotes.filter fun r => r.id != id } }

def Remote.held (r : Remote) (id : Nat) (v : Word) : Remote := if r.id == id then { r with ans := some v } else r

/-- An answer whose store cannot be made yet is kept. -/
def State.holdAnswer (s : State) (id : Nat) (v : Word) : State :=
  { s with fab := { s.fab with remotes := s.fab.remotes.map fun r => r.held id v } }

/-- `Answer(v)` of R418: the result word, then the add; a store that faults leaves no word and adds 0x0001_0001. -/
def State.answerRemote (s : State) (r : Remote) (v : Word) : State :=
  let w : Agent := ⟨r.ctx, some r.cell, some r.boxes, seqAgentId r.cell r.role 0, 0, (s.ctxAt r.ctx).step, none, 2 ^ 43 + r.id⟩
  match s.writeAt w none r.res.toNat (bytesOf 8 v.toNat) with
  | .ok s1 _ => (s1.dropRemote r.id).addFlag r.ctx (deviceFlagAddr r.flag) 1
  | .stall _ =>
    if (s.ctxAt r.ctx).stmo.toNat * 1024 ≤ r.stalled then
      (((s.dropRemote r.id).sandglass 0x000C r.cell.val (r.ctx.val + r.rank * 2 ^ 6) r.res).addFlag r.ctx (deviceFlagAddr r.flag)
        0x00010001)
    else s.holdAnswer r.id v
  | .fault f =>
    ((((s.logUe? f.ue).dropRemote r.id).sandglass 0x000C r.cell.val (r.ctx.val + r.rank * 2 ^ 6) r.res).addFlag r.ctx
      (deviceFlagAddr r.flag) 0x00010001)
  | .pend s1 => s1.holdAnswer r.id v
  | .stop _ => s

/-- The answer to a TPOSTX; one that comes after UNREACHABLE finds nothing and is dropped (R82). -/
def execTpostxAnswer (id : Nat) (v : Word) (s : State) : Outcome State Fault Refusal :=
  match s.fab.remotes.find? (fun r => r.id == id) with
  | some r => .next (s.answerRemote r v)
  | none => .next s

/-- 25 µs in fs (R82, R155, R233). -/
def us25 : Nat := 25000000000

/-- No answer within 25 µs of issue (R82). -/
def execTpostxNoAnswer (id : Nat) (s : State) : Outcome State Fault Refusal :=
  match s.fab.remotes.find? (fun r => r.id == id) with
  | some r => if r.ans.isNone && decide (us25 ≤ s.clk.fs - r.since) then .next (s.answerRemote r stUNREACHABLE) else .next s
  | none => .next s

end Sys2Proof.Machine
end

