-- ==== Sys2Proof/Machine/Special.lean ====
section
/-! DEFINITION. The special functions of `VSF` (R130 to R132): each is computed in fixed point with 320 fraction bits and rounded once.
UNVERIFIED (log entry 8): that 320 bits decide every rounding. -/

namespace Sys2Proof.Machine

/-- Fraction bits of the fixed-point values. -/
def fixP : Nat := 320

def fixOne : Nat := 2 ^ fixP

/-- Integer square root by digits: the largest `r + d` with square at most `n`, `d` below `2^k`. -/
def isqrtFrom : Nat → Nat → Nat → Nat
  | 0, _, r => r
  | k + 1, n, r => isqrtFrom k n (if (r + 2 ^ k) * (r + 2 ^ k) ≤ n then r + 2 ^ k else r)

def isqrt (n : Nat) : Nat := isqrtFrom (Nat.log2 n / 2 + 1) n 0

/-- ln 2 in fixed point: the sum of `1 / (k * 2^k)`. -/
def fixLn2 : Nat := (List.range 330).foldl (fun a k => a + 2 ^ (fixP + 8) / ((k + 1) * 2 ^ (k + 1))) 0 / 2 ^ 8

/-- arctan (1 / n) in fixed point with 16 more bits. -/
def fixAtanInv (n : Nat) : Nat :=
  let r := (List.range 80).foldl (fun (a : Nat × Nat × Nat) i =>
    if i % 2 = 0 then (a.1 + a.2.2 / (2 * i + 1), a.2.1, a.2.2 / (n * n))
    else (a.1, a.2.1 + a.2.2 / (2 * i + 1), a.2.2 / (n * n))) (0, 0, 2 ^ (fixP + 16) / n)
  r.1 - r.2.1

/-- π / 2 in fixed point, by Machin's formula. -/
def fixHalfPi : Nat := (8 * fixAtanInv 5 - 2 * fixAtanInv 239) / 2 ^ 16

/-- Sum of a power series whose next term is the last one times `r`, divided by `den i`. -/
def fixSeries (r : Int) (den : Nat → Nat) : Nat → Nat → Int → Int
  | 0, _, _ => 0
  | n + 1, i, t => t + fixSeries r den n (i + 1) (t * r / (fixOne : Int) / (den i : Int))

/-- e^r for 0 ≤ r < 1. -/
def fixExp (r : Int) : Int := fixSeries r (fun i => i + 1) 90 0 (fixOne : Int)

def fixSin (r : Int) : Int :=
  let r2 := r * r / (fixOne : Int)
  fixSeries (-r2) (fun i => (2 * i + 2) * (2 * i + 3)) 50 0 r

def fixCos (r : Int) : Int :=
  let r2 := r * r / (fixOne : Int)
  fixSeries (-r2) (fun i => (2 * i + 1) * (2 * i + 2)) 50 0 (fixOne : Int)

/-- 2 artanh z for 0 ≤ z ≤ 1/3: the powers of z are summed with their odd divisors. -/
def fixTwoArtanh (z : Nat) : Nat :=
  let z2 := z * z / fixOne
  2 * ((List.range 110).foldl (fun (a : Nat × Nat) i => (a.1 + a.2 / (2 * i + 1), a.2 * z2 / fixOne)) (0, z)).1

/-- A finite value in fixed point, rounded down. -/
def fixOf (neg : Bool) (m : Nat) (e : Int) : Int :=
  let k := e + fixP
  let a : Int := if 0 ≤ k then (m * 2 ^ k.toNat : Nat) else (m / 2 ^ (-k).toNat : Nat)
  if neg then -a else a

/-- An inexact result whose magnitude lies just above `m * 2^e`. -/
def inexactAt (neg : Bool) (m : Nat) (e : Int) : Nat × Flg := roundTo f32 .rne false neg m e true

def inexactFix (v : Int) : Nat × Flg := inexactAt (decide (v < 0)) v.natAbs (-(fixP : Int))

def exactAt (neg : Bool) (m : Nat) (e : Int) : Nat × Flg := roundTo f32 .rne false neg m e false

/-- A value just below one. -/
def belowOne (neg : Bool) : Nat × Flg := inexactAt neg (2 ^ 64 - 1) (-64)

def inf32 (neg : Bool) : Nat := f32.code neg f32.infCode

/-- A magnitude far below the smallest subnormal. -/
def vanishing (neg : Bool) : Nat × Flg := inexactAt neg 1 (-400)

/-- `Floor` of a finite value. -/
def floorFin (neg : Bool) (m : Nat) (e : Int) : Int :=
  let a : Int := if neg then -(m : Int) else m
  if 0 ≤ e then a * (2 ^ e.toNat : Nat) else a / (2 ^ (-e).toNat : Nat)

/-- 2^x of a finite value. -/
def exp2Fin (neg : Bool) (m : Nat) (e : Int) : Nat × Flg :=
  if m = 0 then exactAt false 1 0
  else if 12 < (Nat.log2 m : Int) + e then (if neg then vanishing false else (inf32 false, fOF ||| fNX))
  else
    let n := floorFin neg m e
    let fr := fixOf neg m e - n * fixOne
    if 128 ≤ n then (inf32 false, fOF ||| fNX)
    else if fr = 0 then exactAt false 1 n
    else inexactAt false (fixExp (fr * fixLn2 / (fixOne : Int))).toNat (n - fixP)

/-- e^x in fixed point times a power of two: significand and exponent, for |x| below 2^8. -/
def expParts (x : Int) : Int × Int :=
  let k := x / (fixLn2 : Int)
  (fixExp (x - k * fixLn2), k)

/-- log2 of a positive finite value. -/
def log2Fin (m : Nat) (e : Int) : Nat × Flg :=
  let l := Nat.log2 m
  let n : Int := l + e
  let y := m * 2 ^ fixP / 2 ^ l
  if y = fixOne then exactAt (decide (n < 0)) n.natAbs 0
  else
    let z := (y - fixOne) * fixOne / (y + fixOne)
    let lg := fixTwoArtanh z * fixOne / fixLn2
    inexactFix (n * fixOne + lg)

def rcpFin (neg : Bool) (m : Nat) (e : Int) : Nat × Flg :=
  roundTo f32 .rne false neg (fixOne / m) (-(fixP : Int) - e) (fixOne % m != 0)

def sqrtFin (m : Nat) (e : Int) : Nat × Flg :=
  let m1 := if e % 2 = 0 then m else 2 * m
  let e1 := if e % 2 = 0 then e else e - 1
  let x := m1 * 2 ^ 128
  let r := isqrt x
  roundTo f32 .rne false false r (e1 / 2 - 64) (r * r != x)

def rsqrtFin (m : Nat) (e : Int) : Nat × Flg :=
  let m1 := if e % 2 = 0 then m else 2 * m
  let e1 := if e % 2 = 0 then e else e - 1
  let r := isqrt (2 ^ 256 / m1)
  roundTo f32 .rne false false r (-128 - e1 / 2) (r * r * m1 != 2 ^ 256)

/-- A magnitude just below `m * 2^e`, for arguments so small that the function is its argument less a higher-order term. -/
def justBelow (neg : Bool) (m : Nat) (e : Int) : Nat × Flg := inexactAt neg (m * 2 ^ 64 - 1) (e - 64)

/-- Quadrant and remainder of a finite value modulo π/2 (R132). -/
def reduceQuarter (neg : Bool) (m : Nat) (e : Int) : Int × Int :=
  let t := fixOf neg m e
  let k := (2 * t + fixHalfPi) / (2 * (fixHalfPi : Int))
  (k % 4, t - k * fixHalfPi)

def sinFin (neg : Bool) (m : Nat) (e : Int) : Nat × Flg :=
  if (Nat.log2 m : Int) + e < -40 then justBelow neg m e
  else
    let r := reduceQuarter neg m e
    inexactFix (if r.1 = 0 then fixSin r.2 else if r.1 = 1 then fixCos r.2 else if r.1 = 2 then -fixSin r.2 else -fixCos r.2)

def cosFin (neg : Bool) (m : Nat) (e : Int) : Nat × Flg :=
  if (Nat.log2 m : Int) + e < -64 then belowOne false
  else
    let r := reduceQuarter neg m e
    inexactFix (if r.1 = 0 then fixCos r.2 else if r.1 = 1 then -fixSin r.2 else if r.1 = 2 then -fixCos r.2 else fixSin r.2)

/-- |x| > 2^17. -/
def outOfRange (m : Nat) (e : Int) : Bool :=
  let l := (Nat.log2 m : Int) + e
  m != 0 && (decide (17 < l) || (decide (l = 17) && m != 2 ^ Nat.log2 m))

def tanhFin (neg : Bool) (m : Nat) (e : Int) : Nat × Flg :=
  let l := (Nat.log2 m : Int) + e
  if l < -40 then justBelow neg m e
  else if 5 ≤ l then belowOne neg
  else
    let p := expParts (2 * fixOf false m e)
    let y := p.1 * (2 ^ p.2.toNat : Nat)
    let v := (y - fixOne) * fixOne / (y + fixOne)
    inexactAt neg v.toNat (-(fixP : Int))

def sigmFin (neg : Bool) (m : Nat) (e : Int) : Nat × Flg :=
  let l := (Nat.log2 m : Int) + e
  if l < -64 then (if neg then inexactAt false (2 ^ 65 - 1) (-66) else inexactAt false (2 ^ 64) (-65))
  else if 7 ≤ l then (if neg then vanishing false else belowOne false)
  else
    let p := expParts (fixOf neg m e)
    let y := p.1
    -- σ(x) = e^x / (1 + e^x), with e^x = y * 2^k
    let den : Int := if 0 ≤ p.2 then fixOne + y * (2 ^ p.2.toNat : Nat) else fixOne + y / (2 ^ (-p.2).toNat : Nat)
    inexactAt false (y * fixOne / den).toNat (p.2 - fixP)

/-- The range NaN of SIN and COS (R132). -/
def rangeNan : Nat := 0x7FD00000

/-- `VSF` on one f32 code (R130, R131), before and after FTZ. -/
def sf32 (fn : SfFn) (ftz : Bool) (c : Nat) : Nat × Flg :=
  ftzResult ftz <|
  match fn, f32v (ftzCode ftz c) with
  | _, .nan => (nan32, 0)
  | .exp2, .inf neg => (if neg then 0 else inf32 false, 0)
  | .exp2, .fin neg m e => exp2Fin neg m e
  | .log2, .inf neg => if neg then (nan32, fNV) else (inf32 false, 0)
  | .log2, .fin neg m e => if m = 0 then (inf32 true, fDZ) else if neg then (nan32, fNV) else log2Fin m e
  | .rcp, .inf neg => (f32.code neg 0, 0)
  | .rcp, .fin neg m e => if m = 0 then (inf32 neg, fDZ) else rcpFin neg m e
  | .sqrt, .inf neg => if neg then (nan32, fNV) else (inf32 false, 0)
  | .sqrt, .fin neg m e => if m = 0 then (f32.code neg 0, 0) else if neg then (nan32, fNV) else sqrtFin m e
  | .rsqrt, .inf neg => if neg then (nan32, fNV) else (0, 0)
  | .rsqrt, .fin neg m e => if m = 0 then (inf32 neg, fDZ) else if neg then (nan32, fNV) else rsqrtFin m e
  | .sin, .inf _ => (rangeNan, fRANGE)
  | .sin, .fin neg m e =>
    if m = 0 then (f32.code neg 0, 0) else if outOfRange m e then (rangeNan, fRANGE) else sinFin neg m e
  | .cos, .inf _ => (rangeNan, fRANGE)
  | .cos, .fin neg m e =>
    if m = 0 then exactAt false 1 0 else if outOfRange m e then (rangeNan, fRANGE) else cosFin neg m e
  | .tanh, .inf neg => (f32.code neg 0x3F800000, 0)
  | .tanh, .fin neg m e => if m = 0 then (f32.code neg 0, 0) else tanhFin neg m e
  | .sigm, .inf neg => (if neg then 0 else 0x3F800000, 0)
  | .sigm, .fin neg m e => if m = 0 then exactAt false 1 (-1) else sigmFin neg m e

end Sys2Proof.Machine
end

