-- ==== Sys2Proof/Machine/Sys.lean ====
section
/-! DEFINITION. The SYS group, major 0x22 (R308): NOP, END, TRAP, ERET, BKPT, PAUSE, FENCE, RDS, WRS, TAKE and GIVE, and the trap of a
word that is no instruction (R312). -/

namespace Sys2Proof.Machine

open Host (Outcome)

/-- EVAL of a trap for which the spec names neither an address nor a value: a free value (R258, R259). -/
def State.freeEval (s : State) : Word := Config.unstatedEval s.clk.cycle.toNat (4 * s.cell.val + (roleIx s.role).val)

/-- A word that decodes to nothing: ILLEGAL, with EVAL the words (R312). -/
def execIllegalEncoding (detail : BitVec 8) (eval : Word) (s : State) : Outcome State Fault Refusal :=
  .next (s.takeTrap (trapOf cILLEGAL detail eval))

def execNop (s : State) : Outcome State Fault Refusal := plainInstr (fun s => .done s) s

/-! ### END, TRAP, ERET, BKPT, PAUSE -/

/-- Discarding what is held for the reports of a sequencer (R358). -/
def State.discardReports (s : State) (c : Fin 256) (q : Role) : State :=
  let y := s.seqAt c q
  let s1 := s.setSeq c q { y with reports := [] }
  (y.reports.filterMap fun r => r.bind s.cmdOf).foldl (fun (t : State) m => t.discardCmd m) s1

/-- Every sequencer of the cell has executed END. -/
def Cell.allEnded (x : Cell) : Bool := x.seqs.toList.all fun q => q.status == .ended

/-- A CELL task is ENDING once its four sequencers have ended (R40). -/
def State.noteEnded (s : State) (c : Fin 256) : State :=
  let x := s.cellAt c
  match (x.task.bind s.taskOf) with
  | some t => if x.allEnded && t.state == TaskState.running then s.setTask { t with state := .ending } else s
  | none => s

/-- END (R42, R358): the sequencer stops, with PC at the END. -/
def State.endMine (s : State) : State :=
  let s1 := s.discardReports s.cell s.role
  let s2 := s1.setMe { s1.me with status := .ended, held := 0, latch := none }
  ((s2.setMyCell s2.myCell.progressed).noteEnded s2.cell)

def execEndSeq (s : State) : Outcome State Fault Refusal :=
  runInstr allRoles .any 4 (fun s => .fixed s.endMine) s

/-- TRAP and BKPT complete, the loop-end check is made, and the trap is taken there (R260). -/
def softTrap (code : BitVec 8) (eval : Word) (s : State) : IRes :=
  let s1 := s.advance 4
  .fixed (s1.takeTrapAt s1.cell s1.role (trapOf code 0 eval) s1.me.pc)

def execTrap (a : Reg) (s : State) : Outcome State Fault Refusal :=
  plainInstr (fun s => softTrap cSOFTWARE (s.g a) s) s

def execBkpt (s : State) : Outcome State Fault Refusal := plainInstr (fun s => softTrap cBREAK 0 s) s

/-- ERET issues only after every earlier instruction of the sequencer has completed its own effects: its stores are performed (R266). -/
def execEret (s : State) : Outcome State Fault Refusal := plainInstr (fun s => .fixed s.performMine.eretExec) s

/-- PAUSE ends 16 mc after it issues (R403). -/
def execPause (s : State) : Outcome State Fault Refusal := plainInstr (fun s => .wait s (.pause 16)) s

/-! ### FENCE, TAKE, GIVE -/

/-- Performing the acting sequencer's stores of the named streams, with what R184 orders before them (R185). -/
def State.performStreams (s : State) (mask : BitVec 16) : State :=
  let mine := s.mem.pend.filter fun p => p.cell == s.cell && p.role == s.role
  let seeds := mine.filter fun p => mask.getLsbD p.stream.val
  s.performAll (closeOver seeds [] mine.reverse)

/-- An engine command of the acting sequencer in a named stream has not completed (R185). -/
def State.streamBusy (s : State) (mask : BitVec 16) : Bool :=
  s.cmds.any fun m => m.owner == .seq s.cell s.role && mask.getLsbD m.stream.val

/-- FENCE issues once the named streams are empty (R185, R366). -/
def execFence (mask : BitVec 16) (s : State) : Outcome State Fault Refusal :=
  runInstr allRoles (.streams mask) 4 (fun s =>
    if s.streamBusy mask then .again (s.performStreams mask) else .done (s.performStreams mask)) s

/-- Going on after the takes, or leaving the ready set until every queue of the mask holds a token (R28). Tokens that the
instruction took before it waited are not taken again (R265). -/
def withTakes (mask : BitVec 3) (s : State) (f : State → IRes) : IRes :=
  if s.me.held = mask then f s
  else if s.myCell.canTake s.role mask then f (s.setMyCell (s.myCell.take s.role mask))
  else .wait s (.tokens mask)

def execTake (mask : BitVec 3) (s : State) : Outcome State Fault Refusal :=
  runInstr allRoles .any 4 (fun s => withTakes mask s fun s1 => .done s1) s

/-- A turn in which another sequencer of the cell issues. -/
def Turn.isIssueOf (c : Fin 256) : Turn → Bool
  | .issue d _ => d == c
  | .late .. | .event _ | .outside _ => false

/-- The give check of R30, after every take of the cycle (R31): a give that would overflow is judged last. -/
def giveChecked (mask : BitVec 3) (s : State) (k : IRes) : IRes :=
  if !s.myCell.overflows s.role mask then k
  else if s.agenda.any (Turn.isIssueOf s.cell) then .again { s with agenda := s.agenda ++ [.late s.cell s.role] }
  else .trap (trapOf cTOKEN 0 s.freeEval)

/-- GIVE reserves and makes its gives at once, after releasing what came before (R30, R32, R187, R370). -/
def execGive (mask : BitVec 3) (s : State) : Outcome State Fault Refusal :=
  plainInstr (fun s => giveChecked mask s (
    if mask = 0 then .done s
    else
      let s1 := s.performMine
      .done (s1.setMyCell (s1.myCell.giveNow s1.role mask)))) s

/-! ### RDS and WRS (R301, R302, R405, R406, R431, R432) -/

def flagBit (b : Bool) (i : Nat) : Nat := if b then 2 ^ i else 0

/-- Number of one bits among the lowest `n` bits. -/
def onesBelow : Nat → Nat → Nat
  | 0, _ => 0
  | n + 1, x => x % 2 + onesBelow n (x / 2)

/-- STEPST of R212. -/
def Ctx.stepst (x : Ctx) : Word :=
  word (x.applied.toNat * 2 ^ 32 + x.lead % 4 * 2 ^ 21 + flagBit x.absent 20 + flagBit x.conflict 19 + flagBit x.partialEnd 18
    + flagBit (x.sealJobs.any fun j => !j.sent) 17 + flagBit x.joined 16 + onesBelow 4096 x.live.toNat)

/-- The registers that only C may name (R24, R301). -/
def sprRoles : Spr → List Role
  | .fpctl | .fpflg | .vl | .accp => [.C]
  | .seq | .cell | .cluster | .rank | .ctx | .ticket | .arg _ | .fbase _ | .step | .stepst | .cycle | .wintmo
  | .cause | .epc | .eval | .eprog | .tvec | .esave => allRoles

/-- The value that an RDS of the acting sequencer reads. -/
def State.sprValue (s : State) (r : Spr) : Word :=
  let x := s.myCell
  let q := s.me
  let c := s.myCtx
  match r with
  | .seq => word (roleIx s.role).val
  | .cell => word s.cell.val
  | .cluster => word (clusterOf s.cell).val
  | .rank => word c.rank
  | .ctx => word x.ctx.val
  | .ticket => x.ticket
  | .arg i => x.args[i]
  | .fbase i => x.fbase[i]
  | .fpctl => x.fpctl.zeroExtend 64
  | .fpflg => x.fpflg.zeroExtend 64
  | .vl => x.vl.zeroExtend 64
  | .accp => x.accp.zeroExtend 64
  | .step => c.stepSeen
  | .stepst => c.stepstSeen
  | .cycle => s.clk.cycle
  | .wintmo => q.wintmo.zeroExtend 64
  | .cause => q.cause
  | .epc => q.epc
  | .eval => q.eval
  | .eprog => q.eprog
  | .tvec => q.tvec
  | .esave => q.esave

/-- An access to FPFLG waits for every CHAIN of the cell (R129). -/
def sprBusy (r : Spr) (s : State) : Bool := r == .fpflg && s.chainBusy s.cell

def execRds (d : Reg) (r : Spr) (s : State) : Outcome State Fault Refusal :=
  runInstr (sprRoles r) .none 4 (fun s => if sprBusy r s then .again s else .done (s.setG d (s.sprValue r))) s

/-- CAUSE as WRS leaves it: HND is written, and a 1 in bit 18 clears DEF and with it ENG, which is 0 when DEF is 0 (R258). -/
def causeWrite (old v : Word) : Word :=
  let a := putField old 31 1 (field v 31 1)
  if bitAt v 18 then putField a 18 4 0 else a

/-- The effect of a WRS of `v` (R432). -/
def State.sprWrite (s : State) (r : Spr) (v : Word) : State :=
  let x := s.myCell
  let q := s.me
  let c := s.myCtx
  match r with
  | .stepst => s.setCtx s.ctxIx { c with
      conflict := c.conflict && !bitAt v 19
      partialEnd := c.partialEnd && !bitAt v 18 }
  | .fpctl => s.setMyCell { x with fpctl := v.truncate 3 }
  | .fpflg => s.setMyCell { x with fpflg := v.truncate 6 }
  | .vl => s.setMyCell { x with vl := BitVec.ofNat 11 (min v.toNat 1024) }
  | .accp => s.setMyCell { x with accp := v.truncate 12 }
  | .wintmo => s.setMe { q with wintmo := v.truncate 32 }
  | .cause => s.setMe { q with cause := causeWrite q.cause v }
  | .epc => s.setMe { q with epc := putField v 0 2 0 }
  | .tvec => s.setMe { q with tvec := putField v 0 2 0 }
  | .eval => s.setMe { q with eval := v }
  | .esave => s.setMe { q with esave := v }
  | .seq | .cell | .cluster | .rank | .ctx | .ticket | .arg _ | .fbase _ | .step | .cycle | .eprog => s

def execWrs (r : Spr) (d : Reg) (s : State) : Outcome State Fault Refusal :=
  runInstr (sprRoles r) .none 4 (fun s => if sprBusy r s then .again s else .done (s.sprWrite r (s.g d))) s

end Sys2Proof.Machine
end

