-- ==== Sys2Proof/Machine/Vector.lean ====
section
/-! DEFINITION. The vector majors 0x28 to 0x2D (R163 to R172, R421 to R426, R429, R430, R442). -/

namespace Sys2Proof.Machine

open Host (Outcome)

/-! ### The checks of R421 -/

/-- What R421 judges before the effect: operand codes and fixed fields, the type, groups by code and size, the limit on VL, the
sources and the destination, each by code and group size. -/
structure VShape where
  codes : Bool
  types : Bool
  limit : Nat → Bool
  srcs : List (Nat × Nat)
  dst : Option (Nat × Nat)

/-- VL within a group of `k` registers of a type, and whole blocks of a BX type (R165). -/
def vlFits (ty k vl : Nat) : Bool := decide (vl ≤ k * vlMax ty) && (!tyIsBx ty || vl % 16 == 0)

/-- Steps 1 to 4 of R421: the first failure, if any. -/
def VShape.verdict (h : VShape) (vl : Nat) : Option IRes :=
  if !h.codes || !(h.srcs.all fun c => srcCode c.1) || !(h.dst.all fun c => dstCode c.1) then some trapCode
  else if !h.types then some trapType
  else if !(h.srcs.all fun c => groupFits c.1 c.2) || !(h.dst.all fun c => groupFits c.1 c.2) then some trapGroup
  else if !h.limit vl then some trapVl
  else none

/-- A V-format instruction of C under R421, with an effect on the state after its pops. -/
def vInstr (h : VShape) (eff : State → List (List VReg) → IRes) (s : State) : Outcome State Fault Refusal :=
  runInstr [.C] .none 4 (fun s =>
    match h.verdict s.vl with
    | some r => r
    | none => s.withSources h.srcs h.dst eff) s

/-! ### Element-wise operations (R422) -/

def intOrF32 (ty : Nat) : Bool := tyIsInt ty || ty == 12

/-- An exact integer result as an element: clamped under `.sat` (R111), or modulo 2^N. -/
def intClose (ty : Nat) (sat : Bool) (x : Int) : Nat :=
  intBits (tyBits ty) (if sat then clampInt x (intLo (tyBits ty) (tySigned ty)) (intHi (tyBits ty) (tySigned ty)) else x)

/-- The three operand elements, by columns. -/
def lanes (op : Nat → Nat → Nat → Nat × Flg) : List (List Nat) → List (Nat × Flg)
  | [a] => a.map fun x => op x 0 0
  | [a, b] => List.zipWith (fun x y => op x y 0) a b
  | [a, b, d] => List.zipWith (fun x y => op x y.1 y.2) a (b.zip d)
  | _ => []

def orFlags (l : List (Nat × Flg)) : Flg := l.foldl (fun (a : Flg) x => a ||| x.2) 0

/-- Writing results and reporting their flags. -/
def State.putLanes (s : State) (code n : Nat) (l : List (Nat × Flg)) : State :=
  (s.reportFlags s.cell (orFlags l)).putDest code [regOf n (l.map (·.1))]

/-- Major 0x28 with sources of single registers: element i of vd is `op` of the source elements. -/
def vArith (f : VFields) (srcs : List (Fin 32)) (fixed types : Bool) (op : FpCtl → Nat → Nat → Nat → Nat × Flg) (s : State) :
    Outcome State Fault Refusal :=
  vInstr
    { codes := fixed, types := types, limit := vlFits f.ty.val 1
      srcs := srcs.map fun c => (c.val, 1), dst := some (f.vd.val, 1) }
    (fun s1 regs =>
      let n := tyBits f.ty.val
      .done (s1.putLanes f.vd.val n (lanes (op s1.fpCtl) (regs.map fun r => groupElems n r s1.vl)))) s

def f32Or (ty : Nat) (fl : Nat × Flg) (int : Nat) : Nat × Flg := if ty = 12 then fl else (int, 0)

def execVadd (f : VFields) (sat : Bool) (s : State) : Outcome State Fault Refusal :=
  let ty := f.ty.val
  vArith f [f.a, f.b] true (intOrF32 ty)
    (fun k x y _ => f32Or ty (add32 k x y) (intClose ty sat (intElem ty x + intElem ty y))) s

def execVsub (f : VFields) (sat : Bool) (s : State) : Outcome State Fault Refusal :=
  let ty := f.ty.val
  vArith f [f.a, f.b] true (intOrF32 ty)
    (fun k x y _ => f32Or ty (sub32 k x y) (intClose ty sat (intElem ty x - intElem ty y))) s

def execVmul (f : VFields) (sat : Bool) (s : State) : Outcome State Fault Refusal :=
  let ty := f.ty.val
  vArith f [f.a, f.b] true (intOrF32 ty)
    (fun k x y _ => f32Or ty (mul32 k x y) (intClose ty sat (intElem ty x * intElem ty y))) s

/-- VFMA reads vd as its third source, which no queue or fragment may be. -/
def execVfma (f : VFields) (s : State) : Outcome State Fault Refusal :=
  let ty := f.ty.val
  vArith f [f.a, f.b, f.vd] (decide (f.vd.val < 24)) (intOrF32 ty)
    (fun k x y d => f32Or ty (fma32 k x y d) (intClose ty false (intElem ty x * intElem ty y + intElem ty d))) s

def execVmin (f : VFields) (s : State) : Outcome State Fault Refusal :=
  let ty := f.ty.val
  vArith f [f.a, f.b] true (intOrF32 ty)
    (fun k x y _ => if ty = 12 then (min32 k.ftz x y, 0) else (if intElem ty y < intElem ty x then y else x, 0)) s

def execVmax (f : VFields) (s : State) : Outcome State Fault Refusal :=
  let ty := f.ty.val
  vArith f [f.a, f.b] true (intOrF32 ty)
    (fun k x y _ => if ty = 12 then (max32 k.ftz x y, 0) else (if intElem ty x < intElem ty y then y else x, 0)) s

def signOf (ty : Nat) : Nat := 2 ^ (tyBits ty - 1)

/-- VABS: a floating element loses its sign bit and keeps the rest. -/
def execVabs (f : VFields) (s : State) : Outcome State Fault Refusal :=
  let ty := f.ty.val
  vArith f [f.a] (f.b == 0) (decide (ty ≤ 12))
    (fun _ x _ _ => (if tyIsInt ty then intBits (tyBits ty) (intElem ty x).natAbs else x % signOf ty, 0)) s

def execVneg (f : VFields) (s : State) : Outcome State Fault Refusal :=
  let ty := f.ty.val
  vArith f [f.a] (f.b == 0) (decide (ty ≤ 12))
    (fun _ x _ _ => (if tyIsInt ty then intBits (tyBits ty) (-intElem ty x) else x ^^^ signOf ty, 0)) s

def execVand (f : VFields) (s : State) : Outcome State Fault Refusal :=
  vArith f [f.a, f.b] true (decide (f.ty.val ≤ 12)) (fun _ x y _ => (x &&& y, 0)) s

def execVor (f : VFields) (s : State) : Outcome State Fault Refusal :=
  vArith f [f.a, f.b] true (decide (f.ty.val ≤ 12)) (fun _ x y _ => (x ||| y, 0)) s

def execVxor (f : VFields) (s : State) : Outcome State Fault Refusal :=
  vArith f [f.a, f.b] true (decide (f.ty.val ≤ 12)) (fun _ x y _ => (x ^^^ y, 0)) s

/-- Shifts by the whole element; a shift of the width or more gives 0, or the sign for a signed right shift. -/
def execVshl (f : VFields) (s : State) : Outcome State Fault Refusal :=
  let n := tyBits f.ty.val
  vArith f [f.a, f.b] true (tyIsInt f.ty.val) (fun _ x y _ => (if n ≤ y then 0 else x * 2 ^ y % 2 ^ n, 0)) s

def execVshr (f : VFields) (s : State) : Outcome State Fault Refusal :=
  let ty := f.ty.val
  let n := tyBits ty
  vArith f [f.a, f.b] true (tyIsInt ty) (fun _ x y _ => (intBits n (intElem ty x / (2 ^ min y n : Nat)), 0)) s

/-- VSEL takes a where any bit of the old vd is 1. -/
def execVsel (f : VFields) (s : State) : Outcome State Fault Refusal :=
  vArith f [f.a, f.b, f.vd] (decide (f.vd.val < 24)) (decide (f.ty.val ≤ 12)) (fun _ x y d => (if d = 0 then y else x, 0)) s

/-- Whole blocks of a BX register: the bytes of VL / 16 blocks (R163). -/
def bxPrefix (ty vl : Nat) (r : VReg) : VReg := BitVec.ofNat 4096 (bitsOf r.toNat 0 (8 * bxBytes ty * (vl / 16)))

/-- VMOV takes every type; a BX type moves whole blocks. -/
def execVmov (f : VFields) (s : State) : Outcome State Fault Refusal :=
  let ty := f.ty.val
  vInstr
    { codes := f.b == 0, types := true, limit := vlFits ty 1, srcs := [(f.a.val, 1)], dst := some (f.vd.val, 1) }
    (fun s1 regs =>
      let r := (regs.headD []).headD 0
      let out := if tyIsBx ty then bxPrefix ty s1.vl r else regOf (tyBits ty) (regElems (tyBits ty) r s1.vl)
      .done (s1.putDest f.vd.val [out])) s

/-! ### VCMP (R425) -/

/-- Types a condition may compare: every integer type, and f32 under codes 0 to 3. -/
def cmpType (ty : Nat) (cc : Cond) : Bool := tyIsInt ty || (ty == 12 && cc != .ltn && cc != .gen)

def execVcmp (f : VFields) (cc : Cond) (s : State) : Outcome State Fault Refusal :=
  let ty := f.ty.val
  vArith f [f.a, f.b] true (cmpType ty cc)
    (fun k x y _ => (if (if ty = 12 then condF32 cc k.ftz x y else condElem cc (tyBits ty) x y) then 1 else 0, 0)) s

/-! ### Conversions (R170, R426) -/

/-- Width for sizing: a BX type counts as 8 bits. -/
def convWidth (ty : Nat) : Nat := if tyIsBx ty then 8 else tyBits ty

/-- A BX type pairs with one floating type; `.sat` needs an f16, bf16 or f8 destination. -/
def convPair (tyS tyD : Nat) (sat : Bool) : Bool :=
  (if tyIsBx tyS then decide (8 ≤ tyD) && !tyIsBx tyD
   else if tyIsBx tyD then decide (8 ≤ tyS)
   else true) && (!sat || (decide (8 ≤ tyD) && decide (tyD ≤ 11)))

/-- Blocks of 16 values to BX bytes, with the flags of every block (R121). -/
def bxPack (ty : Nat) : Nat → List FV → Nat × Flg
  | 0, _ => (0, 0)
  | n + 1, xs =>
    let b := toBx (bxM ty) (xs.take 16)
    let rest := bxPack ty n (xs.drop 16)
    (b.1 + rest.1 * 2 ^ (8 * bxBytes ty), b.2 ||| rest.2)

/-- Values to a destination type over a group of `k` registers, with their flags. -/
def convRegs (tyD k : Nat) (sat : Bool) (rm : RM) (xs : List FV) : List VReg × Flg :=
  if tyIsBx tyD then
    let r := bxPack tyD (xs.length / 16) xs
    ([BitVec.ofNat 4096 r.1], r.2)
  else
    let l := xs.map (if 1 < k then widenTo tyD sat rm else convertTo tyD sat rm)
    ((List.range k).map fun j => groupReg (tyBits tyD) k j (l.map (·.1)), orFlags l)

/-- A conversion from groups of `kS` to groups of `kD` registers. -/
def vConv (f : VFields) (tyD : Nat) (sat ratio : Bool) (kS kD : Nat) (s : State) : Outcome State Fault Refusal :=
  let tyS := f.ty.val
  vInstr
    { codes := f.b == 0, types := ratio && convPair tyS tyD sat
      limit := fun vl => vlFits tyS kS vl && vlFits tyD kD vl
      srcs := [(f.a.val, kS)], dst := some (f.vd.val, kD) }
    (fun s1 regs =>
      let r := convRegs tyD kD sat s1.fpCtl.rm (groupVals tyS (regs.headD []) s1.vl)
      .done ((s1.reportFlags s1.cell r.2).putDest f.vd.val r.1)) s

def execVcvt (f : VFields) (tyD : Fin 16) (sat : Bool) (s : State) : Outcome State Fault Refusal :=
  vConv f tyD.val sat (convWidth f.ty.val == convWidth tyD.val) 1 1 s

/-- The ratio of two widths, 1 where it is neither 2 nor 4. -/
def widthRatio (narrow wide : Nat) : Nat :=
  if convWidth wide = 2 * convWidth narrow then 2 else if convWidth wide = 4 * convWidth narrow then 4 else 1

def execVwid (f : VFields) (tyD : Fin 16) (sat : Bool) (s : State) : Outcome State Fault Refusal :=
  let k := widthRatio f.ty.val tyD.val
  vConv f tyD.val sat (k != 1) 1 k s

def execVnar (f : VFields) (tyD : Fin 16) (sat : Bool) (s : State) : Outcome State Fault Refusal :=
  let k := widthRatio tyD.val f.ty.val
  vConv f tyD.val sat (k != 1) k 1 s

/-! ### VSF (R430) -/

def execVsf (f : VFields) (fn : SfFn) (s : State) : Outcome State Fault Refusal :=
  vArith f [f.a] (f.b == 0) (f.ty == 12) (fun k x _ _ => sf32 fn k.ftz x) s

/-! ### VRED, VBC, VIOTA, VPERM, VSETL (R423, R424) -/

/-- The fixed tree over a list: the left part is the largest power of two below the length (R179, R424). -/
def treeFold {α : Type} (f : α → α → α) : Nat → α → List α → α
  | 0, d, l => l.headD d
  | n + 1, d, l =>
    match l with
    | [] => d
    | [x] => x
    | _ => f (treeFold f n d (l.take (powBelow 11 l.length))) (treeFold f n d (l.drop (powBelow 11 l.length)))

/-- `Combine` of two elements, with the flags so far. -/
def redCombine (op : RedOp) (ty : Nat) (k : FpCtl) (x y : Nat × Flg) : Nat × Flg :=
  let r : Nat × Flg :=
    match op with
    | .and => (x.1 &&& y.1, 0)
    | .or => (x.1 ||| y.1, 0)
    | .xor => (x.1 ^^^ y.1, 0)
    | .add => f32Or ty (add32 k x.1 y.1) (intClose ty false (intElem ty x.1 + intElem ty y.1))
    | .min => (if ty = 12 then min32 k.ftz x.1 y.1 else if intElem ty y.1 < intElem ty x.1 then y.1 else x.1, 0)
    | .max => (if ty = 12 then max32 k.ftz x.1 y.1 else if intElem ty x.1 < intElem ty y.1 then y.1 else x.1, 0)
  (r.1, x.2 ||| y.2 ||| r.2)

def redType (op : RedOp) (ty : Nat) : Bool :=
  match op with
  | .and | .or | .xor => decide (ty ≤ 12)
  | .add | .min | .max => intOrF32 ty

/-- An element as VRED reads it: FTZ applies to the operands of the f32 arithmetic ones (R128). -/
def redOperand (op : RedOp) (ty : Nat) (k : FpCtl) (x : Nat) : Nat × Flg :=
  (match op with
    | .and | .or | .xor => x
    | .add | .min | .max => ftzCode (k.ftz && ty == 12) x, 0)

/-- VRED writes one element; with VL = 0 every bit is 0. -/
def execVred (f : VFields) (op : RedOp) (s : State) : Outcome State Fault Refusal :=
  let ty := f.ty.val
  vInstr
    { codes := f.b == 0, types := redType op ty, limit := vlFits ty 1, srcs := [(f.a.val, 1)], dst := some (f.vd.val, 1) }
    (fun s1 regs =>
      let l := (groupElems (tyBits ty) (regs.headD []) s1.vl).map (redOperand op ty s1.fpCtl)
      .done (s1.putLanes f.vd.val (tyBits ty) (if l.isEmpty then [] else [treeFold (redCombine op ty s1.fpCtl) 11 (0, 0) l]))) s

/-- A vector without a vector source. -/
def vMake (f : VFields) (fixed types : Bool) (x : State → Nat → Nat) (s : State) : Outcome State Fault Refusal :=
  vInstr
    { codes := fixed, types := types, limit := vlFits f.ty.val 1, srcs := [], dst := some (f.vd.val, 1) }
    (fun s1 _ => .done (s1.putLanes f.vd.val (tyBits f.ty.val) ((List.range s1.vl).map fun i => (x s1 i, 0)))) s

def execVbc (f : VFields) (s : State) : Outcome State Fault Refusal :=
  vMake f (f.b == 0) (decide (f.ty.val ≤ 12)) (fun s1 _ => field (s1.g f.a) 0 (tyBits f.ty.val)) s

def execViota (f : VFields) (s : State) : Outcome State Fault Refusal :=
  vMake f (f.a == 0 && f.b == 0) (tyIsInt f.ty.val) (fun _ i => i % 2 ^ tyBits f.ty.val) s

/-- VPERM reads vB as n16, whatever ty is. -/
def execVperm (f : VFields) (s : State) : Outcome State Fault Refusal :=
  let ty := f.ty.val
  let n := tyBits ty
  vInstr
    { codes := true, types := decide (ty ≤ 12), limit := fun vl => vlFits ty 1 vl && decide (vl ≤ 256)
      srcs := [(f.a.val, 1), (f.b.val, 1)], dst := some (f.vd.val, 1) }
    (fun s1 regs =>
      let a := (regs.headD []).headD 0
      let ix := groupElems 16 (regs.getD 1 []) s1.vl
      .done (s1.putDest f.vd.val [regOf n (ix.map fun j => if j < s1.vl then elemOf n a.toNat j else 0)])) s

/-- VSETL (R164): vd and vA name g-registers, and every type has a VLMAX. -/
def execVsetl (f : VFields) (s : State) : Outcome State Fault Refusal :=
  runInstr [.C] .none 4 (fun s =>
    if f.b != 0 then trapCode
    else
      let n := min (s.g f.a).toNat (vlMax f.ty.val)
      .done ((s.setMyCell { s.myCell with vl := BitVec.ofNat 11 n }).setG f.vd (word n))) s

/-! ### VPART (R171, R172, R429) -/

/-- The partition state, by its byte offsets. -/
def partByte (r : VReg) (o n : Nat) : Nat := bitsOf r.toNat (8 * o) (8 * n)

def partValid (r : VReg) (nbox : Nat) : Bool :=
  decide (1 ≤ partByte r 100 1) && decide (partByte r 100 1 ≤ 8) && decide (partByte r 101 1 < nbox) &&
  partByte r 102 2 == 0 && partByte r 108 20 == 0

/-- Counts and drops so far, and the stores made so far, latest first. -/
structure PartRun where
  cnt : Vector Nat 8
  drop : Nat
  stores : List (Nat × Nat)

/-- One element of class `c`, with index `ix`. -/
def partStep (r : VReg) (p : PartRun) (x : Nat × Nat) : PartRun :=
  if h : x.1 < 8 then
    if x.1 < partByte r 100 1 then
      { p with
        cnt := p.cnt.set x.1 ((p.cnt[x.1] + 1) % 2 ^ 32)
        stores := ((partByte r (8 * x.1) 8 + 4 * p.cnt[x.1]) % 2 ^ 64, x.2) :: p.stores }
    else { p with drop := (p.drop + 1) % 2 ^ 32 }
  else { p with drop := (p.drop + 1) % 2 ^ 32 }

def partRun (r : VReg) (classes : List Nat) : PartRun :=
  (classes.zipIdx.map fun x => (x.1, (partByte r 96 4 + x.2) % 2 ^ 32)).foldl (partStep r)
    ⟨Vector.ofFn fun i => partByte r (64 + 4 * i.val) 4, partByte r 104 4, []⟩

/-- The new state: bytes 128 to 511 are those of vB. -/
def partOut (r : VReg) (p : PartRun) (vl : Nat) : VReg :=
  let cnts := p.cnt.toList.zipIdx.foldl (fun a x => putBits a (8 * (64 + 4 * x.2)) 32 x.1) r.toNat
  BitVec.ofNat 4096 (putBits (putBits cnts (8 * 96) 32 (partByte r 96 4 + vl)) (8 * 104) 32 p.drop)

/-- The stores of a list, each planned: those before the first that faults, and that fault. -/
def State.planStores (s : State) (w : Agent) (slot : Nat) : List (Nat × Nat) → XR (List (Nat × Nat × List Seg) × Option AccFault)
  | [] => .ok s ([], none)
  | x :: xs =>
    if x.1 % 4 != 0 then .ok s ([], some (accFault cMISALIGNED 0 x.1))
    else
      match s.planAccess w .write (some slot) x.1 4 with
      | .fault f => .ok s ([], some f)
      | .stall va => .stall va
      | .pend s1 => .pend s1
      | .stop pa => .stop pa
      | .ok s1 gs => (s1.planStores w slot xs).bind fun s2 r => .ok s2 ((x.1, x.2, gs) :: r.1, r.2)

def State.storePlanned (s : State) (w : Agent) : List (Nat × Nat × List Seg) → XR Unit
  | [] => .ok s ()
  | x :: xs => (s.writePlanned w x.1 x.2.2 (bytesOf 4 x.2.1)).bind fun s1 _ => s1.storePlanned w xs

/-- Every store, or the first fault in element order. -/
def State.partStores (s : State) (slot : Nat) (l : List (Nat × Nat)) : XR Unit :=
  let w := s.seqAgent 0
  (s.planStores w slot l).bind fun s1 r =>
    (s1.storePlanned w r.1).bind fun s2 _ =>
      match r.2 with
      | some f => .fault f
      | none => .ok s2 ()

def partType (ty : Nat) : Bool := ty == 3 || ty == 5 || ty == 7

/-- VPART judges its state and its stores before it pops anything (R429). -/
def execVpart (f : VFields) (s : State) : Outcome State Fault Refusal :=
  let ty := f.ty.val
  let h : VShape :=
    { codes := true, types := partType ty, limit := vlFits ty 1, srcs := [(f.a.val, 1), (f.b.val, 1)], dst := some (f.vd.val, 1) }
  runInstr [.C] .none 4 (fun s =>
    match h.verdict s.vl with
    | some r => r
    | none =>
      s.withSources h.srcs h.dst fun _ regs =>
        let st := (regs.getD 1 []).headD 0
        if !partValid st s.myCell.boxes.length then .trap (trapOf cILLEGAL 0x1B 0)
        else if s.slotsFull then .again s
        else
          let p := partRun st (groupElems (tyBits ty) (regs.headD []) s.vl)
          (s.partStores (partByte st 101 1) p.stores.reverse).thenI s fun s1 _ =>
            .done ((s1.popAll h.srcs).putDest f.vd.val [partOut st p s.vl])) s

end Sys2Proof.Machine
end

