-- ==== Sys2Proof/Machine/MomentGrp.lean ====
section
/-! DEFINITION. Moment values and the MOM group, major 0x2E (R177 to R181, R393 to R395). -/

namespace Sys2Proof.Machine

open Host (Outcome)

/-! ### Moment values (R177 to R180): f32 arithmetic under RNE without FTZ and without flags -/

def momN (m : Moment) : Nat := bitsOf m.toNat 0 32
def momW (m : Moment) : Nat := bitsOf m.toNat 32 32
def momMean (m : Moment) : Nat := bitsOf m.toNat 64 32
def momM2 (m : Moment) : Nat := bitsOf m.toNat 96 32

def momOf (n w mean m2 : Nat) : Moment := BitVec.ofNat 128 (n + w * 2 ^ 32 + mean * 2 ^ 64 + m2 * 2 ^ 96)

def momEmpty (m : Moment) : Bool := momMean m == 0x7FC0E000

def plainAdd (x y : Nat) : Nat := (add32 .plain x y).1
def plainSub (x y : Nat) : Nat := (sub32 .plain x y).1
def plainMul (x y : Nat) : Nat := (mul32 .plain x y).1

/-- The quotient of two finite values, not both zero divisors, with the excess below the last bit as a sticky bit. -/
def divFin (n1 : Bool) (m1 : Nat) (e1 : Int) (n2 : Bool) (m2 : Nat) (e2 : Int) : Nat :=
  let a := m1 * 2 ^ 64
  (roundTo f32 .rne false (n1 != n2) (a / m2) (e1 - e2 - 64) (a % m2 != 0)).1

/-- `x / y` rounded to f32: x / 0 gives an infinity, 0 / 0 and ∞ / ∞ the canonical NaN (R178). -/
def plainDiv (x y : Nat) : Nat :=
  match f32v x, f32v y with
  | .nan, _ => nan32
  | _, .nan => nan32
  | .inf _, .inf _ => nan32
  | .inf a, .fin b _ _ => inf32 (a != b)
  | .fin a _ _, .inf b => f32.code (a != b) 0
  | .fin a m e, .fin b n k =>
    if n = 0 then (if m = 0 then nan32 else inf32 (a != b))
    else if m = 0 then f32.code (a != b) 0
    else divFin a m e b n k

def isZero32 (x : Nat) : Bool := (f32v x).isZero

/-- `MomMerge` of R178. -/
def momMerge (a b : Moment) : Moment :=
  if momEmpty a then b
  else if momEmpty b then a
  else
    let n := min (momN a + momN b) (2 ^ 32 - 1)
    if isZero32 (momW b) then momOf n (momW a) (momMean a) (momM2 a)
    else if isZero32 (momW a) then momOf n (momW b) (momMean b) (momM2 b)
    else
      let w := plainAdd (momW a) (momW b)
      let d := plainSub (momMean b) (momMean a)
      let f := plainDiv (momW b) w
      let mean := plainAdd (momMean a) (plainMul d f)
      let t := plainMul (plainMul d d) (plainMul (momW a) f)
      momOf n w mean (plainAdd (plainAdd (momM2 a) (momM2 b)) t)

def leafMom (w x : Nat) : Moment := momOf 1 w x 0

/-- `Tree` of R179 over values with their weights. -/
def momTree (l : List (Nat × Nat)) : Moment := treeFold momMerge 11 emptyMoment (l.map fun x => leafMom x.2 x.1)

def one32 : Nat := 0x3F800000

/-- `MomNorm` of R180. -/
def momNorm (x : Nat) (m : Moment) (eps : Nat) : Nat :=
  if momEmpty m then x
  else
    let v := plainDiv (momM2 m) (momW m)
    let r := (sf32 .rsqrt false (plainAdd v eps)).1
    plainMul (plainSub x (momMean m)) r

/-! ### The group -/

/-- A moment register number, by its field. -/
def momReg (f : Fin 32) : Option (Fin 16) := if h : f.val < 16 then some ⟨f.val, h⟩ else none

def State.mom (s : State) (i : Fin 16) : Moment := s.myCell.m[i]

def State.setMom (s : State) (i : Fin 16) (v : Moment) : State := s.setMyCell { s.myCell with m := s.myCell.m.set i v }

/-- Step 1 of R394: register numbers and fixed fields, else detail 0x1A. -/
def withMom {α : Type} (ok : Bool) (x : Option α) (k : α → IRes) : IRes :=
  match x with
  | some a => if ok then k a else trapCode
  | none => trapCode

def cInstr (body : State → IRes) (s : State) : Outcome State Fault Refusal := runInstr [.C] .none 4 body s

def execMclr (f : VFields) (s : State) : Outcome State Fault Refusal :=
  cInstr (fun s => withMom (f.a == 0 && f.b == 0 && f.ty == 0) (momReg f.vd) fun d => .done (s.setMom d emptyMoment)) s

/-- Types of MUPD and MUPDW (R179). -/
def momType (ty : Nat) : Bool := decide (ty < 6) || (decide (8 ≤ ty) && decide (ty ≤ 12))

/-- The elements of an operand as f32 codes (R179). -/
def momVals (ty : Nat) (regs : List VReg) (vl : Nat) : List Nat := (groupVals ty regs vl).map roundF32

/-- Weights are f32 elements, a NaN as the canonical one. -/
def momWeights (regs : List VReg) (vl : Nat) : List Nat :=
  (groupElems 32 regs vl).map fun x => if isNan32 x then nan32 else x

/-- The update of R179: nothing changes where VL is 0. -/
def State.momUpdate (s : State) (d : Fin 16) (l : List (Nat × Nat)) : State :=
  if l.isEmpty then s else s.setMom d (momMerge (s.mom d) (momTree l))

def execMupd (f : VFields) (s : State) : Outcome State Fault Refusal :=
  cInstr (fun s =>
    withMom (srcCode f.a.val && f.b == 0) (momReg f.vd) fun d =>
      if !momType f.ty.val then trapType
      else if !vlFits f.ty.val 1 s.vl then trapVl
      else
        s.withSources [(f.a.val, 1)] none fun s1 regs =>
          .done (s1.momUpdate d ((momVals f.ty.val (regs.headD []) s.vl).map fun x => (x, one32)))) s

def execMupdw (f : VFields) (s : State) : Outcome State Fault Refusal :=
  cInstr (fun s =>
    withMom (srcCode f.a.val && srcCode f.b.val) (momReg f.vd) fun d =>
      if !momType f.ty.val then trapType
      else if 128 < s.vl || !vlFits f.ty.val 1 s.vl then trapVl
      else
        s.withSources [(f.a.val, 1), (f.b.val, 1)] none fun s1 regs =>
          .done (s1.momUpdate d ((momVals f.ty.val (regs.headD []) s.vl).zip (momWeights (regs.getD 1 []) s.vl)))) s

def execMmrg (f : VFields) (s : State) : Outcome State Fault Refusal :=
  cInstr (fun s =>
    withMom (f.ty == 0) ((momReg f.vd).bind fun d => (momReg f.a).bind fun a => (momReg f.b).map fun b => (d, a, b)) fun r =>
      .done (s.setMom r.1 (momMerge (s.mom r.2.1) (s.mom r.2.2)))) s

/-- What MGET selects (R181). -/
def momSel (m : Moment) (sel : Nat) : Word :=
  match sel with
  | 0 => word (momN m)
  | 1 => word (momW m)
  | 2 => word (momMean m)
  | 3 => word (momM2 m)
  | 4 => word (bitsOf m.toNat 0 64)
  | _ => word (bitsOf m.toNat 64 64)

def execMget (f : VFields) (s : State) : Outcome State Fault Refusal :=
  cInstr (fun s =>
    withMom (f.b == 0 && decide (f.ty.val ≤ 5)) (momReg f.a) fun a => .done (s.setG f.vd (momSel (s.mom a) f.ty.val))) s

/-- MNORM: x and ε are f32 operands, ε is element 0, and K stands in the ty field. -/
def execMnorm (f : VFields) (s : State) : Outcome State Fault Refusal :=
  cInstr (fun s =>
    if !dstCode f.vd.val || !srcCode f.a.val || !srcCode f.b.val then trapCode
    else if 128 < s.vl then trapVl
    else
      s.withSources [(f.a.val, 1), (f.b.val, 1)] (some (f.vd.val, 1)) fun s1 regs =>
        let eps := elemOf 32 ((regs.getD 1 []).headD 0).toNat 0
        let xs := groupElems 32 (regs.headD []) s.vl
        .done (s1.putDest f.vd.val [regOf 32 (xs.map fun x => momNorm x (s.mom f.ty) eps)])) s

/-- MLD and MST move 16 bytes in stream 0 under box slot s. -/
def momAccess (f : VFields) (s : State) (k : Fin 16 → IRes) : IRes :=
  withMom (f.b == 0 && decide (f.ty.val < s.myCell.boxes.length)) (momReg f.vd) fun d =>
    if (s.g f.a).toNat % 16 != 0 then .trap (trapOf cMISALIGNED 0 (s.g f.a))
    else if s.slotsFull then .again s
    else k d

def execMld (f : VFields) (s : State) : Outcome State Fault Refusal :=
  cInstr (fun s =>
    momAccess f s fun d =>
      (s.readBytes (s.seqAgent 0) (some f.ty.val) (s.g f.a).toNat 16).thenI s fun s1 bs =>
        .done (s1.setMom d (BitVec.ofNat 128 (natOf bs)))) s

def execMst (f : VFields) (s : State) : Outcome State Fault Refusal :=
  cInstr (fun s =>
    momAccess f s fun d =>
      (s.writeAt (s.seqAgent 0) (some f.ty.val) (s.g f.a).toNat (bytesOf 16 (s.mom d).toNat)).thenI s fun s1 _ => .done s1) s

end Sys2Proof.Machine
end

