-- ==== Sys2Proof/Machine/Tile.lean ====
section
/-! DEFINITION. The short tile group, major 0x2F (R139, R142, R148, R252, R311, R333 to R335, R341, R342, R367): AZERO, FMTQ, AGLD, AGST
and CARM. -/

namespace Sys2Proof.Machine

open Host (Outcome)

/-- Steps 2 and 3 of R146 on rows [acc, acc + n): the trap, if any. -/
def State.rowsTrap (s : State) (acc n : Nat) : Option TrapInfo :=
  let x := s.myCell
  if n < 1 || 2048 < n || 2048 < acc + n then some (trapOf cILLEGAL 0x13 0)
  else
    match (List.range n).find? fun i => acc + i < x.accFirst || x.accEnd ≤ acc + i with
    | some i => some (trapOf cREGION 0x05 (word (acc + i)))
    | none => none

/-- AZERO waits for every earlier MMA on its rows, then sets them to +0 (R148, R335). -/
def execAzero (a b : Reg) (s : State) : Outcome State Fault Refusal :=
  runInstr [.C] .none 4 (fun s =>
    let acc := (s.g a).toNat
    let n := (s.g b).toNat
    match s.rowsTrap acc n with
    | some t => .trap t
    | none =>
      if (List.range n).any fun i => s.rowBusy s.cell (acc + i) then .again s
      else .done (s.clearAcc s.cell acc n)) s

/-- FMTQ pushes a word, which no rule checks here (R367). -/
def execFmtq (a : Reg) (s : State) : Outcome State Fault Refusal :=
  runInstr [.K] .none 4 (fun s =>
    let x := s.myCell
    if 16 ≤ x.fmtq.length then .wait s .fmtFull
    else .done (s.setMyCell { x with fmtq := x.fmtq ++ [s.g a] })) s

/-- The address of an AGLD or AGST, which must be a multiple of 64 (R334). -/
def agAddr (a : Reg) (imm : BitVec 10) (s : State) : Nat := s.addrOf a (imm.toInt * 64)

/-- AGLD reads a table, makes its base absolute and hands it to its shadow at the end of the cycle (R139, R334). -/
def execAgld (n : Fin 8) (a : Reg) (imm : BitVec 10) (s : State) : Outcome State Fault Refusal :=
  runInstr [.K, .L, .S] .none 4 (fun s =>
    let addr := agAddr a imm s
    if addr % 64 != 0 then .trap (trapOf cMISALIGNED 0 (word addr))
    else
      s.withSlot ((s.readBytes (s.seqAgent 0) none addr 64).thenI s fun s1 bs =>
        let t : AgImage := BitVec.ofNat 512 (natOf bs)
        if !agValid t s.myCell.boxes.length then .trap trapNoTable
        else .done (s1.setMyCell { s1.myCell with agNew := s1.myCell.agNew ++ [(n, absTable t s.myCell.boxes)] }))) s

/-- AGST stores a shadow's 64 bytes. -/
def execAgst (n : Fin 8) (a : Reg) (imm : BitVec 10) (s : State) : Outcome State Fault Refusal :=
  runInstr [.K, .L, .S] .none 4 (fun s =>
    let addr := agAddr a imm s
    if addr % 64 != 0 then .trap (trapOf cMISALIGNED 0 (word addr))
    else s.withSlot ((s.writeAt (s.seqAgent 0) none addr (bytesOf 64 s.myCell.ag[n].toNat)).thenI s fun s1 _ => .done s1)) s

/-! ### CARM (R252, R342) -/

def State.entryAtDie (s : State) (die : Fin 2) (e : Fin 16) : Option ArmedEntry := s.col.entries[die][e]

def State.setEntry (s : State) (die : Fin 2) (e : Fin 16) (x : Option ArmedEntry) : State :=
  { s with col := { s.col with entries := s.col.entries.set die (s.col.entries[die].set e x) } }

def RunSrc.isEntry (e : Fin 16) : RunSrc → Bool
  | .entry i => i == e
  | .cmd _ => false

/-- A run of an entry is in progress. -/
def State.entryRuns (s : State) (die : Fin 2) (e : Fin 16) : Bool := s.col.runs.any fun r => r.die == die && r.src.isEntry e

/-- Disarming: an entry with a run in progress is free once it ends. -/
def State.disarm (s : State) (die : Fin 2) (e : Fin 16) (x : ArmedEntry) : State :=
  s.setEntry die e (if s.entryRuns die e then some { x with disarm := true } else none)

/-- Fields of a collective descriptor (R242). -/
def collTrig (d : AgImage) : Nat := imgField d 0x30 0 16

/-- T0 is the trigger flag as it stands when its cycle ends. -/
def State.arm (s : State) (die : Fin 2) (e : Fin 16) (d : AgImage) : State :=
  let s1 := s.performMine
  s1.setEntry die e (some ⟨s1.ctxIx, d, s1.flagAt s1.ctxIx (deviceFlagAddr (collTrig d)), 0, false, true⟩)

def execCarm (d a b : Reg) (s : State) : Outcome State Fault Refusal :=
  runInstr [.K] .none 4 (fun s =>
    let v := s.g b
    let e : Fin 16 := Fin.ofNat 16 (field v 0 4)
    let die := dieOf s.cell
    if field v 9 55 != 0 || field v 4 4 != 0 then .done (s.setG d stBOUNDS)
    else
      match s.entryAtDie die e with
      | some x =>
        if !bitAt v 8 then .done (s.setG d stBUSY)
        else if x.ctx == s.ctxIx then .done ((s.disarm die e x).setG d stOK)
        else .done (s.setG d stBOUNDS)
      | none =>
        if bitAt v 8 then .done (s.setG d stBOUNDS)
        else if (s.g a).toNat % 64 != 0 then .trap (trapOf cMISALIGNED 0 (s.g a))
        else
          s.withSlot ((s.readBytes (s.seqAgent 0) none (s.g a).toNat 64).thenI s fun s1 bs =>
            let t : AgImage := BitVec.ofNat 512 (natOf bs)
            if collValid t true then .done ((s1.arm die e t).setG d stOK) else .done (s1.setG d stBOUNDS))) s

end Sys2Proof.Machine
end

