-- ==== Sys2Proof/Machine/EngineCmd.lean ====
section
/-! DEFINITION. Long forms, majors 0x30 to 0x3C (R298, R325, R353): the checks and the issue of LDA, LDB, MMA, DRAIN, NMV, CPY, XPOSE,
COLL, LDV, STV, VGATH, VSCAT and CHAIN. -/

namespace Sys2Proof.Machine

open Host (Outcome)

/-! ### The steps of R325 and R353 -/

/-- The number of an engine: the cell for the cell's own engines, the die for the others. -/
def unitOf (e : Eng) (c : Fin 256) : Nat :=
  match e with
  | .load | .matrix | .drain | .chain => c.val
  | .copy | .xpose | .nmv | .coll => (dieOf c).val

/-- Going on after the takes: they are made when the command enters its queue, or while it waits after them (R265, R325). -/
def takesReady (mask : BitVec 3) (s : State) (k : IRes) : IRes :=
  if s.me.held = mask || s.myCell.canTake s.role mask then k else .wait s (.tokens mask)

/-- The takes of an instruction that has not made them yet. -/
def State.makeTakes (s : State) (mask : BitVec 3) : State :=
  if s.me.held = mask then s
  else s.setMyCell ((s.myCell.take s.role mask).setSeq s.role { s.me with held := mask })

/-- A wait after the takes (R265). -/
def waitHolding (mask : BitVec 3) (s : State) (w : Wait) : IRes := .wait (s.makeTakes mask) w

/-- Entering the engine's queue: takes made, gives reserved, earlier accesses of the sequencer performed (R29, R186). -/
def State.enterQueue (s : State) (eng : Eng) (e : EngWord) (op : CmdOp) : State :=
  let s1 := (s.makeTakes e.take).performMine
  let x := s1.myCell
  let s2 := s1.setMyCell (x.reserveGives s1.role e.give)
  let m : Cmd :=
    { id := s2.clk.nextId, eng := eng, unit := unitOf eng s2.cell, owner := .seq s2.cell s2.role, stamp := x.task.getD 0
      ctx := x.ctx, stream := e.st, guard := e.guard, gives := e.give, step := s2.myCtx.step, boxes := x.boxes, op := op
      state := .queued, prog := 0, stalled := 0 }
  { s2.bump with cmds := s2.cmds ++ [m] }

/-- Steps 4 and 5 of R325: the give check, room in the queue, then the command with what its issue changes. -/
def commitCmd (eng : Eng) (e : EngWord) (s : State) (op : CmdOp) (eff : State → State) : IRes :=
  giveChecked e.give s (
    if 16 ≤ s.queueLen eng (unitOf eng s.cell) then .wait s (.engine (engCode eng).toNat)
    else .done (eff (s.enterQueue eng e op)))

/-- A long form: pending faults, takes, its checks, then the commit. -/
def longForm (roles : List Role) (eng : Eng) (e : EngWord) (checks : State → IRes) (s : State) : Outcome State Fault Refusal :=
  runInstr roles (if e.take = 0 then .engine eng else .any) 8 (fun s => takesReady e.take s (checks s)) s

/-- Latching a table (R139). -/
def withTable (s : State) (n : Fin 8) (k : AgImage → IRes) : IRes :=
  match s.myCell.latch n with
  | some t => k t
  | none => .trap trapNoTable

/-- Going on where `AgBytes` matches (R154). -/
def bytesFit (ok : Bool) (k : IRes) : IRes := if ok then k else .trap trapBytes

/-! ### LDA and LDB (R143, R144, R382, R383) -/

/-- Ring rows of an LDA, with what a save records of it (R135, R158). -/
def State.assignRows (s : State) (t : AgImage) (n : Nat) : State :=
  let x := s.myCell
  s.setMyCell { x with
    ringNext := x.ringNext + n
    ldaRecs := (x.ldaRecs.filter fun r => decide (x.ringHead < r.first + r.rows)) ++ [⟨t, x.ringNext, n⟩] }

def execLda (n : Fin 8) (e : EngWord) (s : State) : Outcome State Fault Refusal :=
  longForm [.L] .load e (fun s =>
    withTable s n fun t =>
      let rows := agBytes t / 72
      bytesFit (agBytes t % 72 == 0 && rows != 0) (
        commitCmd .load e s (.lda t s.myCell.ringNext rows) fun u => u.assignRows t rows)) s

def State.noteLdb (s : State) (b : Fin 2) (t : AgImage) : State :=
  let x := s.myCell
  s.setMyCell { x with bsrc := x.bsrc.set b (some (t, x.ldbCount + 1)), ldbCount := x.ldbCount + 1 }

def execLdb (n : Fin 8) (b : Fin 2) (e : EngWord) (s : State) : Outcome State Fault Refusal :=
  longForm [.L] .load e (fun s =>
    withTable s n fun t => bytesFit (agBytes t == 18432) (commitCmd .load e s (.ldb b t) fun u => u.noteLdb b t)) s

/-! ### MMA (R140 to R142, R146, R398, R399) -/

/-- K positions of a row by type, 0 where the type is no operand type (R133). -/
def kStepOf (ty : Nat) : Nat :=
  match ty with
  | 0 | 1 | 13 => 144
  | 14 => 96
  | 2 | 3 | 8 | 9 => 72
  | 15 => 64
  | 10 | 11 => 36
  | _ => 0

/-- A valid format word (R141). -/
def fmtValid (w : Word) : Bool :=
  let ta := field w 0 4
  let tb := field w 4 4
  field w 40 24 == 0 && field w 17 15 == 0 && field w 14 2 == 0 && kStepOf ta != 0 && kStepOf ta == kStepOf tb &&
  (if tyIsBx ta then decide (field w 8 3 ≤ 4) else field w 8 3 == 0) &&
  (if tyIsBx tb then decide (field w 11 3 ≤ 4) else field w 11 3 == 0)

/-- The pop of the word and the rows at the ring head (R135, R142). -/
def State.assignMma (s : State) (n : Nat) (keep : Bool) : State :=
  let x := s.myCell
  s.setMyCell { x with fmtq := x.fmtq.drop 1, ringHead := if keep then x.ringHead else x.ringHead + n }

def execMma (a b : Reg) (buf : Fin 2) (z k : Bool) (e : EngWord) (s : State) : Outcome State Fault Refusal :=
  longForm [.C] .matrix e (fun s =>
    let x := s.myCell
    let acc := (s.g a).toNat
    let n := (s.g b).toNat
    if n < 1 || 2048 < n || 2048 < acc + n || (k && 256 < n) then .trap (trapOf cILLEGAL 0x13 0)
    else
      match s.rowsTrap acc n, x.fmtq with
      | some t, _ => .trap t
      | none, [] =>
        if (x.seqOf .K).status == .ended then .trap (trapOf cFORMAT 0 s.freeEval) else waitHolding e.take s .fmtEmpty
      | none, fw :: _ =>
        if !fmtValid fw then .trap (trapOf cILLEGAL 0x10 0)
        else if n % 2 ^ field fw 8 3 != 0 || x.ringHead % 2 ^ field fw 8 3 != 0 then .trap (trapOf cILLEGAL 0x13 0)
        else commitCmd .matrix e s (.mma acc n x.ringHead buf fw z k 0) fun u => u.assignMma n k) s

/-! ### DRAIN (R150, R355, R356) -/

/-- TYPE, SAT and LH of R355. -/
def drainTypeOk (ty : Nat) (sat : Bool) (lh : Nat) : Bool :=
  decide (8 ≤ ty) && decide (lh ≤ 4) && (!sat || decide (ty ≤ 11)) && (lh == 0 || tyIsBx ty)

/-- OB: output bytes of a row (R150). -/
def drainBytes (ty : Nat) : Nat :=
  match ty with
  | 8 | 9 => 256
  | 10 | 11 => 512
  | 13 => 128
  | 14 => 192
  | 15 => 288
  | _ => 1024

/-- MMAs of the cell that issued before and have not completed (R149). -/
def State.mmasBefore (s : State) : List Nat :=
  (s.cmds.filter fun m => m.eng == .matrix && m.unit == s.cell.val).map (·.id)

def execDrain (a b : Reg) (agD agM : Fin 8) (ge : Reg) (mode : DrainMode) (ty : Fin 16) (sat : Bool) (lh : Fin 8) (e : EngWord)
    (s : State) : Outcome State Fault Refusal :=
  longForm [.S] .drain e (fun s =>
    let first := (s.g a).toNat
    let n := (s.g b).toNat
    if !drainTypeOk ty.val sat lh.val then .trap (trapOf cILLEGAL 0x15 0)
    else if n < 1 || 2048 < n || 2048 < first + n || (tyIsBx ty.val && n % 2 ^ lh.val != 0) then .trap (trapOf cILLEGAL 0x13 0)
    else
      match s.rowsTrap first n with
      | some t => .trap t
      | none =>
        withTable s agD fun tD =>
          let go := fun (tM : AgImage) =>
            bytesFit (agBytes tD == n * drainBytes ty.val && (mode == .plain || agBytes tM == 16 * n))
              (commitCmd .drain e s (.drain first n mode ty.val sat lh.val tD tM ((s.g ge).truncate 32) s.mmasBefore) id)
          if mode == .plain then go 0 else withTable s agM go) s

/-! ### NMV (R401, R402) -/

/-- The descriptor at a register's address: aligned to 64 and read in the command's stream by a load of the sequencer (R344, R346, R402),
which needs a request slot (R101). -/
def withDesc (d : Reg) (e : EngWord) (s : State) (k : State → AgImage → IRes) : IRes :=
  if (s.g d).toNat % 64 != 0 then .trap (trapOf cMISALIGNED 0 (s.g d))
  else
    s.withSlot ((s.readBytes (s.seqAgent e.st) none (s.g d).toNat 64).thenI s fun s1 bs => k s1 (BitVec.ofNat 512 (natOf bs)))

def nmvX (d : AgImage) : Nat := imgField d 8 0 64
def nmvY (d : AgImage) : Nat := imgField d 0x10 0 64
def nmvK (d : AgImage) : Nat := imgField d 0x18 32 17
def nmvRows (d : AgImage) : Nat := imgField d 0x18 0 32
def nmvXty (d : AgImage) : Nat := imgField d 0x18 56 4
def nmvWty (d : AgImage) : Nat := imgField d 0x18 52 4
def nmvXbytes (d : AgImage) : Nat := nmvK d * (tyBits (nmvXty d) / 8)

/-- The first byte of a range outside the vault window. -/
def Ctx.outsideByte (x : Ctx) (a n : Nat) : Option Nat :=
  if !x.inWindow a then some a
  else if a + n ≤ x.vbase.toNat + 2 ^ 30 then none
  else some (x.vbase.toNat + 2 ^ 30)

/-- x, then y, outside the window (R402). -/
def Ctx.nmvOutside (x : Ctx) (d : AgImage) : Option Nat :=
  (x.outsideByte (nmvX d) (nmvXbytes d)).or (x.outsideByte (nmvY d) (4 * nmvRows d))

def execNmv (d : Reg) (e : EngWord) (s : State) : Outcome State Fault Refusal :=
  longForm [.L] .nmv e (fun s =>
    withDesc d e s fun s1 t =>
      if !nmvValid t s.myCell.boxes.length then .trap (trapOf cILLEGAL 0x14 0)
      else
        match s.myCtx.nmvOutside t with
        | some a => .trap (trapOf cACCESS 0x0A (word a))
        | none => commitCmd .nmv e s1 (.nmv t none) id) s

/-! ### CPY, XPOSE, COLL (R345 to R348, R434, R435) -/

def execCpy (agD agS : Fin 8) (e : EngWord) (s : State) : Outcome State Fault Refusal :=
  longForm allRoles .copy e (fun s =>
    withTable s agS fun tS =>
      withTable s agD fun tD =>
        bytesFit (agBytes tS == agBytes tD && decide (agBytes tS < 2 ^ 32)) (commitCmd .copy e s (.cpy tD tS) id)) s

def execXpose (agD agS : Fin 8) (r : Reg) (e : EngWord) (s : State) : Outcome State Fault Refusal :=
  longForm allRoles .xpose e (fun s =>
    match xposeParam (s.g r) with
    | none => .trap (trapOf cILLEGAL 0x20 0)
    | some (b, rows, cols) =>
      withTable s agS fun tS =>
        withTable s agD fun tD =>
          bytesFit (agBytes tS == agBytes tD && agBytes tS == rows * cols * b && decide (agBytes tS < 2 ^ 32))
            (commitCmd .xpose e s (.xpose tD tS (s.g r)) id)) s

def execColl (d : Reg) (e : EngWord) (s : State) : Outcome State Fault Refusal :=
  longForm allRoles .coll e (fun s =>
    withDesc d e s fun s1 t =>
      if !collValid t false then .trap (trapOf cILLEGAL 0x1D 0) else commitCmd .coll e s1 (.coll t) id) s

/-! ### LDV, STV, VGATH, VSCAT (R384 to R386, R413, R414, R427, R428) -/

def ldQueue (q : Fin 2) : Fin 4 := ⟨q.val, by omega⟩
def sdQueue (q : Fin 2) : Fin 4 := ⟨q.val + 2, by omega⟩

/-- Reserving `n` tail entries of a queue (R36). -/
def State.reserveEntries (s : State) (q : Fin 4) (ids : List Nat) : State :=
  let x := s.myCell
  s.setMyCell { x with dq := x.dq.set q (x.dq[q] ++ ids.map fun i => ⟨i, none⟩) }

/-- Numbers for `n` entries, and the state that has given them out. -/
def State.newIds (s : State) (n : Nat) : State × List Nat :=
  ({ s with clk := { s.clk with nextId := s.clk.nextId + n } }, (List.range n).map fun i => s.clk.nextId + i)

/-- A command that fills `n` reserved entries of ld q: it waits for room with its takes made. -/
def commitPush (e : EngWord) (s : State) (q : Fin 2) (n : Nat) (op : List Nat → CmdOp) : IRes :=
  if 8 < s.myCell.dq[ldQueue q].length + n then waitHolding e.take s (.pushQueue (ldQueue q) n)
  else
    let r := s.newIds n
    commitCmd .load e r.1 (op r.2) fun u => u.reserveEntries (ldQueue q) r.2

def State.dropEntries (s : State) (q : Fin 4) (n : Nat) : State :=
  let x := s.myCell
  s.setMyCell { x with dq := x.dq.set q (x.dq[q].drop n) }

/-- A command that takes the head `n` entries of sd q: it waits until they are filled, with its takes made. -/
def commitPop (e : EngWord) (s : State) (q : Fin 2) (n : Nat) (op : List VReg → CmdOp) : IRes :=
  match headEntries s.myCell.dq[sdQueue q] n with
  | none => waitHolding e.take s (.popQueue [(sdQueue q, n)])
  | some data => commitCmd .drain e s (op data) fun u => u.dropEntries (sdQueue q) n

def execLdv (q : Fin 2) (n : Fin 8) (e : EngWord) (s : State) : Outcome State Fault Refusal :=
  longForm [.L] .load e (fun s =>
    withTable s n fun t =>
      bytesFit (decide (1 ≤ agBytes t) && decide (agBytes t ≤ 4096)) (
        commitPush e s q (ceilDiv (agBytes t) 512) fun ids => .ldv q t ids)) s

def execStv (q : Fin 2) (n : Fin 8) (e : EngWord) (s : State) : Outcome State Fault Refusal :=
  longForm [.S] .drain e (fun s =>
    withTable s n fun t =>
      bytesFit (decide (1 ≤ agBytes t) && decide (agBytes t ≤ 4096)) (
        commitPop e s q (ceilDiv (agBytes t) 512) fun data => .stv t data)) s

/-- The checks of R428 for an element type and an index table: elements and bytes per element. -/
def gathChecked (ty : Nat) (n : Fin 8) (s : State) (k : AgImage → Nat → IRes) : IRes :=
  if ty < 2 || 12 < ty then trapType
  else
    withTable s n fun t =>
      let cnt := agBytes t / 4
      let len := cnt * (tyBits ty / 8)
      bytesFit (agBytes t % 4 == 0 && decide (1 ≤ len) && decide (len ≤ 4096)) (k t (ceilDiv len 512))

def execVgath (q : Fin 2) (n : Fin 8) (b : Reg) (ty : Fin 16) (e : EngWord) (s : State) : Outcome State Fault Refusal :=
  longForm [.L] .load e (fun s =>
    gathChecked ty.val n s fun t entries => commitPush e s q entries fun ids => .vgath q t (s.g b) ty.val ids) s

def execVscat (q : Fin 2) (n : Fin 8) (b : Reg) (ty : Fin 16) (e : EngWord) (s : State) : Outcome State Fault Refusal :=
  longForm [.S] .drain e (fun s =>
    gathChecked ty.val n s fun t entries => commitPop e s q entries fun data => .vscat t (s.g b) ty.val data) s

/-! ### CHAIN (R173, R174, R344) -/

/-- An operation word: OPC, BSEL and CSEL. -/
def chainOpc (w : Nat) : Nat := bitsOf w 0 8
def chainB (w : Nat) : Nat := bitsOf w 8 4
def chainC (w : Nat) : Nat := bitsOf w 12 4

def selOk (ben : Bool) (c : Nat) : Bool := decide (c ≤ 8) && (c != 1 || ben)

/-- An operation word that R174 defines. -/
def chainOpOk (ben : Bool) (w : Nat) : Bool :=
  let o := chainOpc w
  let b := chainB w
  let c := chainC w
  bitsOf w 16 16 == 0 && selOk ben b && selOk ben c &&
  (if o = 4 then b != 0 && c != 0
   else if o ≤ 6 then b != 0 && c == 0
   else if o = 7 || o = 8 then b == 0 && c == 0
   else decide (0x10 ≤ o) && decide (o ≤ 0x18) && b == 0 && c == 0)

def chainNops (d : AgImage) : Nat := imgField d 0 20 4
def chainTout (d : AgImage) : Nat := imgField d 0 16 4
def chainTin (d : AgImage) : Nat := imgField d 0 12 4
def chainBen (d : AgImage) : Bool := imgField d 0 11 1 == 1
def chainSat (d : AgImage) : Bool := imgField d 0 24 1 == 1
def chainAg (d : AgImage) (lo : Nat) : Fin 8 := Fin.ofNat 8 (imgField d 0 lo 3)
def chainOp (d : AgImage) (j : Nat) : Nat := imgField d (8 + 4 * j) 0 32

def floatTy (ty : Nat) : Bool := decide (8 ≤ ty) && decide (ty ≤ 12)

/-- The descriptor's own fields (R173, R174). -/
def chainValid (d : AgImage) : Bool :=
  let n := chainNops d
  imgField d 0 25 7 == 0 && imgField d 0 7 1 == 0 && imgField d 0 3 1 == 0 && imgField d 4 0 32 == 0 &&
  decide (1 ≤ n) && decide (n ≤ 8) && floatTy (chainTin d) && floatTy (chainTout d) && (!chainSat d || decide (chainTout d ≤ 11)) &&
  (List.range 8).all fun j => if j < n then chainOpOk (chainBen d) (chainOp d j) else chainOp d j == 0

def tyBytes (ty : Nat) : Nat := tyBits ty / 8

/-- AgBytes of the tables agree with the element count (R173). -/
def chainFits (d tA tB tD : AgImage) : Bool :=
  let n := agBytes tA / tyBytes (chainTin d)
  agBytes tA % tyBytes (chainTin d) == 0 && (!chainBen d || agBytes tB == agBytes tA) && agBytes tD == n * tyBytes (chainTout d)

/-- A table that is not latched counts 0 bytes: the descriptor's rules come before the all-zero table (R344). -/
def Cell.tableOr (x : Cell) (n : Fin 8) : AgImage := x.ag[n]

/-- The tables a CHAIN latches, AGA, then AGB where it is present, then AGD. -/
def chainTables (d : AgImage) (s : State) (k : AgImage → AgImage → AgImage → IRes) : IRes :=
  withTable s (chainAg d 0) fun tA =>
    if chainBen d then withTable s (chainAg d 4) fun tB => withTable s (chainAg d 8) fun tD => k tA tB tD
    else withTable s (chainAg d 8) fun tD => k tA 0 tD

def execChain (d : Reg) (e : EngWord) (s : State) : Outcome State Fault Refusal :=
  longForm [.C] .chain e (fun s =>
    withDesc d e s fun s1 t =>
      let x := s.myCell
      let bad : IRes := .trap (trapOf cILLEGAL 0x16 0)
      if !chainValid t then bad
      else if !(chainFits t (x.tableOr (chainAg t 0)) (x.tableOr (chainAg t 4)) (x.tableOr (chainAg t 8))) then bad
      else chainTables t s fun tA tB tD => commitCmd .chain e s1 (.chain t x.fpctl tA tB tD 0) id) s

end Sys2Proof.Machine
end

