-- ==== Sys2Proof/Machine/EngineRun.lean ====
section
/-! DEFINITION. What an engine does with a command that has started (R133 to R161, R175, R348, R385, R402, R414, R428, R435): one unit
of work at a time, which is a row, an entry, an element, a piece of a copy or a row of a transpose. -/

namespace Sys2Proof.Machine

/-! ### Units -/

/-- What comes of the next unit of a command: it is done, with the new progress; it must wait for another command; an access of it
is on its way or stalls; it meets a fault and leaves nothing; or it names an address that does not exist. -/
inductive UnitRes where
  | ok (s : State) (prog : Nat) (op : CmdOp)
  | blocked
  | pend (s : State)
  | stall (va : Nat)
  | fault (f : AccFault)
  | stop (pa : Nat)

/-- Going on with the value of an access. -/
def XR.unit {α : Type} (x : XR α) (f : State → α → UnitRes) : UnitRes :=
  match x with
  | .ok s a => f s a
  | .fault e => .fault e
  | .stall va => .stall va
  | .pend s => .pend s
  | .stop pa => .stop pa

/-- The checks of every part of a write, before any part of a unit is written. -/
def State.probeParts (s : State) (w : Agent) (t : AgImage) : List (Nat × Nat × Nat) → XR Unit
  | [] => .ok s ()
  | p :: ps =>
    if p.1 % agAlign t != 0 then .fault (accFault cMISALIGNED 0 p.1)
    else (s.planAccess w .write (some (agSlot t)) p.2.1 p.2.2).bind fun s1 _ => s1.probeParts w t ps

/-- Writing bytes of a stream as one unit. -/
def State.putStream (s : State) (w : Agent) (t : AgImage) (off : Nat) (bs : List Byte) : XR Unit :=
  (s.probeParts w t (agPartsOf t off bs.length)).bind fun s1 _ => s1.writeStream w t off bs

/-! ### LDA, LDB (R135, R143, R144) -/

/-- A row arrives in its slot; one that is free already leaves it at once. -/
def State.deliverRow (s : State) (c : Fin 256) (q : Nat) (v : RingRow) : State :=
  if s.rowFree c q then s
  else
    let x := s.cellAt c
    s.setCell c { x with ring := x.ring ++ [(q, v)] }

def State.ldaUnit (s : State) (m : Cmd) (c : Fin 256) (t : AgImage) (q0 : Nat) : UnitRes :=
  let q := q0 + m.prog
  if decide (q < 256) || s.rowFree c (q - 256) then
    (s.readStream (s.cmdAgent m) t (72 * m.prog) 72).unit fun s1 bs =>
      .ok (s1.deliverRow c q (BitVec.ofNat 576 (natOf bs))) (m.prog + 1) m.op
  else .blocked

def State.setBRow (s : State) (c : Fin 256) (b : Fin 2) (j v : Nat) : State :=
  let x := s.cellAt c
  s.setCell c { x with bbuf := x.bbuf.set b (BitVec.ofNat 147456 (putBits x.bbuf[b].toNat (576 * j) 576 v)) }

def State.ldbUnit (s : State) (m : Cmd) (c : Fin 256) (b : Fin 2) (t : AgImage) : UnitRes :=
  (s.readStream (s.cmdAgent m) t (72 * m.prog) 72).unit fun s1 bs => .ok (s1.setBRow c b m.prog (natOf bs)) (m.prog + 1) m.op

/-! ### MMA (R124, R134, R146, R147) -/

/-- The K elements of row `r` of a group of `h` operand rows, given as one number of `h × 72` bytes (R116, R134). -/
def opVals (ty h grp r : Nat) : List FV :=
  (List.range (kStepOf ty)).map fun k =>
    if tyIsBx ty then
      let w := 16 / h
      let n := 8 * bxBytes ty
      bxDecode (bitsOf grp (n * (k / w)) n) (bxM ty) (r * w + k % w)
    else elemVal ty (elemOf (tyBits ty) grp k)

/-- The rows of a group in the ring, as one number; none while one is missing. -/
def ringGroup (ring : List (Nat × RingRow)) : Nat → Nat → Option Nat
  | 0, _ => some 0
  | n + 1, q =>
    match ring.find? (fun r => r.1 == q), ringGroup ring n (q + 1) with
    | some r, some rest => some (r.2.toNat + 2 ^ 576 * rest)
    | _, _ => none

/-- The elements of output column `col` in the array copied from a B buffer. -/
def colVals (fw : Word) (arr : BBuf) (col : Nat) : List FV :=
  let h := 2 ^ field fw 11 3
  opVals (field fw 4 4) h (bitsOf arr.toNat (576 * (col / h * h)) (576 * h)) (col % h)

/-- One row update: the new columns (R146). -/
def mmaRow (fw : Word) (z : Bool) (a : List FV) (arr : BBuf) (old : AccRow) : AccRow :=
  rowOfCols ((List.range 256).map fun col =>
    kStep (rowCol old col) (List.zipWith prodFv a (colVals fw arr col)) (sextNat 8 (field fw 32 8)) (field fw 16 1 == 1) z)

/-- An earlier MMA of the same stream still has to write the row (R147). -/
def State.rowAfter (s : State) (m : Cmd) (c : Fin 256) (row : Nat) : Bool :=
  (s.cmds.takeWhile fun x => x.id != m.id).any fun x => x.stream == m.stream && x.writesRow c row

/-- A bad column of a row that a consumer reads (R107): EVAL is the row. -/
def accFaultOf (c : Fin 256) (row col : Nat) : AccFault := ⟨cUNCORR, 0x01, 0, word row, some (accUe c row col)⟩

def State.mmaUnit (s : State) (m : Cmd) (c : Fin 256) (acc q0 : Nat) (fw : Word) (z : Bool) (arr : BBuf) : UnitRes :=
  let i := m.prog
  let h := 2 ^ field fw 8 3
  let row := acc + i
  if s.rowAfter m c row then .blocked
  else
    match ringGroup (s.cellAt c).ring h (q0 + i / h * h) with
    | none => .blocked
    | some grp =>
      match (if z then none else s.badCol c row 0 256) with
      | some col => .fault (accFaultOf c row col)
      | none =>
        let s1 := if z then s else s.correctCols c row 0 256
        .ok (s1.setAccRow c row (mmaRow fw z (opVals (field fw 0 4) h grp (i % h)) arr (s.accRow c row))) (i + 1) m.op

/-! ### DRAIN (R149 to R153, R357) -/

/-- An MMA that issued before the DRAIN still has to write one of `n` rows (R149). -/
def State.drainWaits (s : State) (c : Fin 256) (after : List Nat) (row n : Nat) : Bool :=
  s.cmds.any fun m => after.contains m.id && (List.range n).any fun i => m.writesRow c (row + i)

/-- The bytes of one non-BX row. -/
def drainRow (ty : Nat) (sat : Bool) (xs : List Nat) : List Byte :=
  if ty = 12 then xs.flatMap fun x => bytesOf 4 x
  else xs.flatMap fun x => bytesOf (tyBits ty / 8) (toFloat (tyFmt ty) sat (f32v x)).1

/-- The blocks of a group of `h` rows (R151). -/
def drainBlocks (ty h : Nat) (rows : List (List Nat)) : List Byte :=
  let w := 16 / h
  (List.range (256 / w)).flatMap fun g =>
    bytesOf (bxBytes ty) (toBx (bxM ty) ((List.range 16).map fun e => f32v ((rows.getD (e / w) []).getD (g * w + e % w) 0))).1

/-- The columns of a row. -/
def rowCols (v : AccRow) : List Nat := (List.range 256).map (rowCol v)

/-- The moment value of a row (R152, R179). -/
def rowMoment (xs : List Nat) : Moment := momTree (xs.map fun x => (roundF32 (f32v x), one32))

/-- Rows of one unit: `h` for a BX type, else one. -/
def drainStep (ty lh : Nat) : Nat := if tyIsBx ty then 2 ^ lh else 1

/-- The columns of `n` rows from `row` on, normalised by the moment values read before them in .norm mode (R153). -/
def normRows (mode : DrainMode) (eps : BitVec 32) (ms : List Byte) (rows : List (List Nat)) : List (List Nat) :=
  if mode == .norm then
    rows.zipIdx.map fun x => x.1.map fun v => momNorm v (BitVec.ofNat 128 (natAt ms (16 * x.2) 16)) eps.toNat
  else rows

/-- The parts of a DRAIN that follow the read of its rows: both writes, checked before either is made. -/
def State.drainWrite (s : State) (w : Agent) (mode : DrainMode) (tD tM : AgImage) (off moff : Nat) (out mom : List Byte) : XR Unit :=
  if mode == .mom then
    (s.probeParts w tD (agPartsOf tD off out.length)).bind fun s1 _ =>
      (s1.probeParts w tM (agPartsOf tM moff mom.length)).bind fun s2 _ =>
        (s2.writeStream w tD off out).bind fun s3 _ => s3.writeStream w tM moff mom
  else s.putStream w tD off out

def State.drainUnit (s : State) (m : Cmd) (c : Fin 256) (first : Nat) (mode : DrainMode) (ty : Nat) (sat : Bool) (lh : Nat)
    (tD tM : AgImage) (eps : BitVec 32) (after : List Nat) : UnitRes :=
  let h := drainStep ty lh
  let row := first + m.prog
  let w := s.cmdAgent m
  if s.drainWaits c after row h then .blocked
  else
    match (List.range h).findSome? (fun i => (s.badCol c (row + i) 0 256).map fun j => accFaultOf c (row + i) j) with
    | some f => .fault f
    | none =>
      let rows := (List.range h).map fun i => rowCols (s.accRow c (row + i))
      let s0 := (List.range h).foldl (fun (u : State) i => u.correctCols c (row + i) 0 256) s
      (if mode == .norm then s0.readStream w tM (16 * m.prog) (16 * h) else .ok s0 []).unit fun s1 ms =>
        let vals := normRows mode eps ms rows
        let out := if tyIsBx ty then drainBlocks ty h vals else drainRow ty sat (vals.getD 0 [])
        let mom := rows.flatMap fun r => bytesOf 16 (rowMoment r).toNat
        (s1.drainWrite w mode tD tM (drainBytes ty * m.prog) (16 * m.prog) out mom).unit fun s2 _ => .ok s2 (m.prog + h) m.op

/-! ### LDV, VGATH, STV, VSCAT (R385, R414, R428) -/

/-- Filling one reserved entry (R36). -/
def State.fillEntry (s : State) (c : Fin 256) (id : Nat) (v : VReg) : State :=
  let x := s.cellAt c
  s.setCell c { x with dq := vmap (fun (l : List QEntry) => l.map fun e => if e.id == id then { e with data := some v } else e) x.dq }

def vregOf (bs : List Byte) : VReg := BitVec.ofNat 4096 (natOf bs)

def State.ldvUnit (s : State) (m : Cmd) (c : Fin 256) (t : AgImage) (ids : List Nat) : UnitRes :=
  let off := 512 * m.prog
  (s.readStream (s.cmdAgent m) t off (min 512 (agBytes t - off))).unit fun s1 bs =>
    .ok (s1.fillEntry c (ids.getD m.prog 0) (vregOf bs)) (m.prog + 1) m.op

/-- The addresses of the elements of entry `e` of a gather or scatter, from its index bytes. -/
def gathAddrs (base : Word) (k : Nat) (idx : List Byte) : List Nat :=
  (List.range (idx.length / 4)).map fun i => (base.toNat + natAt idx (4 * i) 4 * k) % 2 ^ 64

/-- Offset and length of the index bytes of entry `e`, for elements of `k` bytes. -/
def idxSpan (t : AgImage) (k e : Nat) : Nat × Nat :=
  let per := 512 / k
  (4 * per * e, min (4 * per) (agBytes t - 4 * per * e))

/-- Loading elements one after another, each naturally aligned. -/
def State.gather (s : State) (w : Agent) (k : Nat) : List Nat → XR (List Byte)
  | [] => .ok s []
  | a :: as =>
    if a % k != 0 then .fault (accFault cMISALIGNED 0 a)
    else (s.readBytes w none a k).bind fun s1 x => (s1.gather w k as).bind fun s2 y => .ok s2 (x ++ y)

def State.vgathUnit (s : State) (m : Cmd) (c : Fin 256) (t : AgImage) (base : Word) (ty : Nat) (ids : List Nat) : UnitRes :=
  let k := tyBytes ty
  let sp := idxSpan t k m.prog
  (s.readStream (s.cmdAgent m) t sp.1 sp.2).unit fun s1 idx =>
    (s1.gather (s1.cmdAgent m) k (gathAddrs base k idx)).unit fun s2 bs =>
      .ok (s2.fillEntry c (ids.getD m.prog 0) (vregOf bs)) (m.prog + 1) m.op

def State.stvUnit (s : State) (m : Cmd) (t : AgImage) (data : List VReg) : UnitRes :=
  let off := 512 * m.prog
  let bs := (bytesOf 512 (data.getD m.prog 0).toNat).take (agBytes t - off)
  (s.putStream (s.cmdAgent m) t off bs).unit fun s1 _ => .ok s1 (m.prog + 1) m.op

/-- The checks of the stores of one entry, before any is made. -/
def State.probeScatter (s : State) (w : Agent) (k : Nat) : List Nat → XR Unit
  | [] => .ok s ()
  | a :: as =>
    if a % k != 0 then .fault (accFault cMISALIGNED 0 a)
    else (s.planAccess w .write none a k).bind fun s1 _ => s1.probeScatter w k as

/-- Storing elements in increasing order. -/
def State.scatter (s : State) (w : Agent) (k : Nat) : List Nat → List Byte → XR Unit
  | [], _ => .ok s ()
  | a :: as, bs => (s.writeAt w none a (bs.take k)).bind fun s1 _ => s1.scatter w k as (bs.drop k)

def State.vscatUnit (s : State) (m : Cmd) (t : AgImage) (base : Word) (ty : Nat) (data : List VReg) : UnitRes :=
  let k := tyBytes ty
  let sp := idxSpan t k m.prog
  let w := s.cmdAgent m
  (s.readStream w t sp.1 sp.2).unit fun s1 idx =>
    let as := gathAddrs base k idx
    (s1.probeScatter w k as).unit fun s2 _ =>
      (s2.scatter w k as (bytesOf 512 (data.getD m.prog 0).toNat)).unit fun s3 _ => .ok s3 (m.prog + 1) m.op

/-! ### CHAIN (R174, R175) -/

def chainFn (o : Nat) : SfFn :=
  match o with
  | 0x10 => .exp2 | 0x11 => .log2 | 0x12 => .rcp | 0x13 => .sqrt | 0x14 => .rsqrt | 0x15 => .sin | 0x16 => .cos
  | 0x17 => .tanh | _ => .sigm

/-- ABS and NEG of a CHAIN: FTZ applies (R128), and a NaN result is canonical (R175). -/
def chainSign (k : FpCtl) (f : Nat → Nat) (x : Nat) : Nat × Flg := (if isNan32 x then nan32 else f (ftzCode k.ftz x), 0)

/-- One operation on f32 codes. -/
def chainStep (k : FpCtl) (o x b c : Nat) : Nat × Flg :=
  match o with
  | 0 => add32 k x b
  | 1 => sub32 k x b
  | 2 => sub32 k b x
  | 3 => mul32 k x b
  | 4 => fma32 k x b c
  | 5 => (min32 k.ftz x b, 0)
  | 6 => (max32 k.ftz x b, 0)
  | 7 => chainSign k (· % 2 ^ 31) x
  | 8 => chainSign k neg32 x
  | _ => sf32 (chainFn o) k.ftz x

/-- The operand that a selector names. -/
def chainSel (d : AgImage) (x0 b1 sel : Nat) : Nat :=
  if sel = 1 then b1 else if sel = 8 then x0 else imgField d (0x28 + 4 * (sel - 2)) 0 32

/-- `ToF32` of an input element (R123). -/
def chainIn (ty c : Nat) : Nat := roundF32 (elemVal ty c)

/-- One element: the output code and the flags. -/
def chainElem (d : AgImage) (k : FpCtl) (a b : Nat) : Nat × Flg :=
  let x0 := chainIn (chainTin d) a
  let b1 := chainIn (chainTin d) b
  let r := (List.range (chainNops d)).foldl (fun (x : Nat × Flg) j =>
    let w := chainOp d j
    let y := chainStep k (chainOpc w) x.1 (chainSel d x0 b1 (chainB w)) (chainSel d x0 b1 (chainC w))
    (y.1, x.2 ||| y.2)) (x0, (0 : Flg))
  if chainTout d = 12 then r
  else
    let o := toFloat (tyFmt (chainTout d)) (chainSat d) (f32v r.1)
    (o.1, r.2 ||| o.2)

def State.chainUnit (s : State) (m : Cmd) (d : AgImage) (ctl : BitVec 3) (tA tB tD : AgImage) (flg : Flg) : UnitRes :=
  let n := tyBytes (chainTin d)
  let w := s.cmdAgent m
  (s.readStream w tA (n * m.prog) n).unit fun s1 a =>
    (if chainBen d then s1.readStream w tB (n * m.prog) n else .ok s1 []).unit fun s2 b =>
      let r := chainElem d (fpCtlOf ctl) (natOf a) (natOf b)
      let k := tyBytes (chainTout d)
      (s2.putStream w tD (k * m.prog) (bytesOf k r.1)).unit fun s3 _ => .ok s3 (m.prog + 1) (.chain d ctl tA tB tD (flg ||| r.2))

/-! ### CPY and XPOSE (R348, R435) -/

/-- Bytes up to the end of the chunk that stream byte `off` lies in. -/
def chunkLeft (t : AgImage) (off : Nat) : Nat := agChunk t - off % agChunk t

/-- One piece lies in one chunk of each stream. -/
def State.cpyUnit (s : State) (m : Cmd) (tD tS : AgImage) : UnitRes :=
  let n := min (chunkLeft tD m.prog) (chunkLeft tS m.prog)
  let w := s.cmdAgent m
  (s.readStream w tS m.prog n).unit fun s1 bs => (s1.putStream w tD m.prog bs).unit fun s2 _ => .ok s2 (m.prog + n) m.op

/-- Reading the elements of source column `c` of an R × C matrix. -/
def State.readColumn (s : State) (w : Agent) (t : AgImage) (b cols c : Nat) : List Nat → XR (List Byte)
  | [] => .ok s []
  | r :: rs =>
    (s.readStream w t ((r * cols + c) * b) b).bind fun s1 x => (s1.readColumn w t b cols c rs).bind fun s2 y => .ok s2 (x ++ y)

def State.xposeUnit (s : State) (m : Cmd) (tD tS : AgImage) (b rows cols : Nat) : UnitRes :=
  let w := s.cmdAgent m
  (s.readColumn w tS b cols m.prog (List.range rows)).unit fun s1 bs =>
    (s1.putStream w tD (m.prog * rows * b) bs).unit fun s2 _ => .ok s2 (m.prog + 1) m.op

/-! ### NMV (R159 to R161, R402) -/

/-- Bytes of a row of W. -/
def nmvRowBytes (d : AgImage) : Nat :=
  if tyIsBx (nmvWty d) then ceilDiv (nmvK d) 16 * bxBytes (nmvWty d) else nmvK d

/-- Address of unit `j` of row `r` (R159). -/
def nmvUnitAddr (d : AgImage) (r j : Nat) : Nat :=
  (imgField d 0 0 64 + 4096 * (r % 512 + 512 * (j + ceilDiv (nmvRowBytes d) 4096 * (r / 512)))) % 2 ^ 64

def nmvSlot (d : AgImage) (lo : Nat) : Option Nat := some (imgField d 0x20 lo 3)

/-- Units of W: each must lie in HBM under a leaf with POL 1. -/
def State.nmvUnits (s : State) (w : Agent) (d : AgImage) (r : Nat) : List Nat → XR (List Byte)
  | [] => .ok s []
  | j :: js =>
    let a := nmvUnitAddr d r j
    (s.planAccess w .read (nmvSlot d 0) a (min 4096 (nmvRowBytes d - 4096 * j))).bind fun s1 gs =>
      match gs.find? (fun g => match g.loc with | .mem _ _ true => false | _ => true) with
      | some g => .fault (accFault cACCESS 0x09 g.va)
      | none => (s1.readSegs w gs).bind fun s2 x => (s2.nmvUnits w d r js).bind fun s3 y => .ok s3 (x ++ y)

/-- Element `k` of a row of W. -/
def nmvW (ty : Nat) (row : List Byte) (k : Nat) : FV :=
  if tyIsBx ty then bxDecode (natAt row (bxBytes ty * (k / 16)) (bxBytes ty)) (bxM ty) (k % 16) else elemVal ty (natAt row k 1)

/-- One chunk of R161, with the special values of R125 in the place of the accumulator; `none` where no value precedes it. -/
def nmvChunk (y : Option Nat) (ps : List FV) : Nat :=
  let yv := y.map f32v
  if (match yv with | some v => v.isNan | none => false) || ps.any FV.isNan then nan32
  else
    let pos := ps.any (· == .inf false)
    let mns := ps.any (· == .inf true)
    if pos && mns then nan32
    else if pos || mns then (if yv == some (.inf (!mns)) then nan32 else f32.code mns f32.infCode)
    else
      let c := ps.foldl (fun a p => (addFv .rne a p).1) FV.zero
      match yv with
      | none => roundF32 c
      | some v => roundF32 (addFv .rne v c).1

/-- `NmvRow` of R161 from the row's bytes, the bytes of x and the value y starts from. -/
def nmvRow (d : AgImage) (row x : List Byte) (y : Option Nat) : Nat :=
  let n := tyBytes (nmvXty d)
  let prods := (List.range (nmvK d)).map fun k => prodFv (nmvW (nmvWty d) row k) (elemVal (nmvXty d) (natAt x (n * k) n))
  ((List.range (ceilDiv (nmvK d) 64)).foldl (fun (a : Option Nat) j => some (nmvChunk a ((prods.drop (64 * j)).take 64))) y).getD 0

def nmvAcc (d : AgImage) : Bool := imgField d 0x18 60 1 == 1

/-- x is read whole before the first row; then one row at a time. -/
def State.nmvUnit (s : State) (m : Cmd) (d : AgImage) (x : Option (List Byte)) : UnitRes :=
  let w := s.cmdAgent m
  match (s.ctxAt m.ctx).nmvOutside d with
  | some a => .fault (accFault cACCESS 0x0A a)
  | none =>
    match x with
    | none => (s.readBytes w (nmvSlot d 4) (nmvX d) (nmvXbytes d)).unit fun s1 bs => .ok s1 m.prog (.nmv d (some bs))
    | some xs =>
      (s.nmvUnits w d m.prog (List.range (ceilDiv (nmvRowBytes d) 4096))).unit fun s1 row =>
        let ya := nmvY d + 4 * m.prog
        (if nmvAcc d then s1.readBytes w (nmvSlot d 8) ya 4 else .ok s1 []).unit fun s2 yb =>
          (s2.writeAt w (nmvSlot d 8) ya (bytesOf 4 (nmvRow d row xs (if nmvAcc d then some (natOf yb) else none)))).unit
            fun s3 _ => .ok s3 (m.prog + 1) m.op

/-! ### The next unit of any command -/

/-- Units of a command: its progress when it is complete. A collective command is driven by its run. -/
def Cmd.total (m : Cmd) : Nat :=
  match m.op with
  | .lda _ _ n => n
  | .ldb .. => 256
  | .mma _ n .. => n
  | .drain _ n .. => n
  | .ldv _ _ ids => ids.length
  | .vgath _ _ _ _ ids => ids.length
  | .stv _ data => data.length
  | .vscat _ _ _ data => data.length
  | .chain d _ tA .. => agBytes tA / tyBytes (chainTin d)
  | .cpy _ tS => agBytes tS
  | .xpose _ _ p => match xposeParam p with | some (_, _, cols) => cols | none => 0
  | .nmv d _ => nmvRows d
  | .coll _ => 1

/-- The cell whose own engine runs the command. -/
def Cmd.cellOf (m : Cmd) : Fin 256 := Fin.ofNat 256 m.unit

def State.nextUnit (s : State) (m : Cmd) : UnitRes :=
  let c := m.cellOf
  match m.op with
  | .lda t q0 _ => s.ldaUnit m c t q0
  | .ldb b t => s.ldbUnit m c b t
  | .mma acc _ q0 _ fw z _ arr => s.mmaUnit m c acc q0 fw z arr
  | .drain first _ mode ty sat lh tD tM eps after => s.drainUnit m c first mode ty sat lh tD tM eps after
  | .ldv _ t ids => s.ldvUnit m c t ids
  | .vgath _ t base ty ids => s.vgathUnit m c t base ty ids
  | .stv t data => s.stvUnit m t data
  | .vscat t base ty data => s.vscatUnit m t base ty data
  | .chain d ctl tA tB tD flg => s.chainUnit m d ctl tA tB tD flg
  | .cpy tD tS => s.cpyUnit m tD tS
  | .xpose tD tS p =>
    match xposeParam p with
    | some (b, rows, cols) => s.xposeUnit m tD tS b rows cols
    | none => .blocked
  | .nmv d x => s.nmvUnit m d x
  | .coll _ => .blocked

/-! ### Running a command on -/

/-- Where a command stands after some units. -/
inductive RunRes where
  | done (s : State) (m : Cmd)
  | hold (s : State) (m : Cmd)
  | fault (s : State) (m : Cmd) (f : AccFault)
  | stop (pa : Nat)

/-- An access of the command stalls: its mc count from the first one on, up to the bound of R229. -/
def State.stalledAt (s : State) (m : Cmd) (va : Nat) : RunRes :=
  if (s.ctxAt m.ctx).stmo.toNat * 1024 < m.stalled then .fault s m (accFault cTIMEOUT 0x01 va)
  else .hold s { m with stalled := max 1 m.stalled }

/-- Up to `fuel` units, until the command is complete or cannot go on. -/
def State.runUnits : Nat → State → Cmd → RunRes
  | 0, s, m => if m.total ≤ m.prog then .done s m else .hold s m
  | fuel + 1, s, m =>
    if m.total ≤ m.prog then .done s m
    else
      match s.nextUnit m with
      | .ok s1 p op => State.runUnits fuel (s1.dropReads (4096 + m.id)) { m with prog := p, op := op, stalled := 0 }
      | .blocked => .hold s m
      | .pend s1 => .hold s1 m
      | .stall va => s.stalledAt m va
      | .fault f => .fault s m f
      | .stop pa => .stop pa

/-- One unit alone. -/
def State.runOne (s : State) (m : Cmd) : RunRes := s.runUnits 1 m

/-- Every unit that can be done now; NMV has one more for x. -/
def State.runAll (s : State) (m : Cmd) : RunRes := s.runUnits (m.total - m.prog + 1) m

end Sys2Proof.Machine
end

