-- ==== Sys2Proof/Machine/Mem.lean ====
section
/-! DEFINITION. Loads, stores, atomics, reductions and multicast, majors 0x10 to 0x15 (R306, R326 to R330, R379 to R381, R396, R397,
R411, R412). -/

namespace Sys2Proof.Machine

open Host (Outcome)

/-- Bytes of an `LD` (R306). -/
def ldBytes : LdSize → Nat
  | .n8 => 1 | .n16 => 2 | .n32 => 4 | .b64 => 8 | .i8 => 1 | .i16 => 2 | .i32 => 4

/-- The value an `LD` writes: sign-extended for the integer sizes (R380). -/
def ldValue (z : LdSize) (x : Nat) : Word :=
  match z with
  | .i8 => sextWord 8 x | .i16 => sextWord 16 x | .i32 => sextWord 32 x
  | .n8 => word x | .n16 => word x | .n32 => word x | .b64 => word x

/-- The first check of a sequencer access, and the stall of R101. -/
def aligned (addr k : Nat) (s : State) (f : IRes) : IRes :=
  if addr % k != 0 then .trap (trapOf cMISALIGNED 0 (word addr))
  else s.withSlot f

/-- `Load(addr, k)` of the acting sequencer in stream `st`, against every box and the stack area. -/
def State.load (s : State) (st : Fin 16) (addr k : Nat) : XR (List Byte) := s.readBytes (s.seqAgent st) none addr k

/-- `Store(addr, k, x)` of the acting sequencer in stream `st`. -/
def State.store (s : State) (st : Fin 16) (addr : Nat) (bs : List Byte) : XR Unit := s.writeAt (s.seqAgent st) none addr bs

/-- `LdExec` of R380. -/
def execLd (d a : Reg) (st : Fin 16) (size : LdSize) (off : BitVec 9) (s : State) : Outcome State Fault Refusal :=
  plainInstr (fun s =>
    let k := ldBytes size
    let addr := s.memAddr a off k
    aligned addr k s ((s.load st addr k).thenI s fun s1 bs => .done (s1.setG d (ldValue size (natOf bs))))) s

/-- `StExec` of R412. -/
def execSt (d a : Reg) (st : Fin 16) (size : Fin 4) (off : BitVec 9) (s : State) : Outcome State Fault Refusal :=
  plainInstr (fun s =>
    let k := 2 ^ size.val
    let addr := s.memAddr a off k
    aligned addr k s ((s.store st addr (bytesOf k (s.g d).toNat)).thenI s fun s1 _ => .done s1)) s

/-! ### Atomics -/

/-- Step 7 of R96 for an atomic that consumes its old value, then the read-modify-write of one local location, indivisibly
(R328 to R330): earlier stores that R184 orders before it are performed first. -/
def State.rmw (s : State) (st : Fin 16) (g : Seg) (f : Nat → Option Nat) : XR Nat :=
  let s0 := s.performBefore (some st) g.keys
  match s0.badRead g with
  | some e => .fault e
  | none =>
    let s1 := s0.correct g.keys
    let old := natOf (s1.segBytes g)
    match f old with
    | none => .ok s1 old
    | some new => .ok (s1.writeBytes (localBytes [g] (bytesOf g.len new))) old

/-- `CheckAtomic` of R329, then the location. -/
def State.atomicAt (s : State) (st : Fin 16) (addr k : Nat) (f : Nat → Option Nat) : XR Nat :=
  (s.planAccess (s.seqAgent st) .atomic none addr k).bind fun s1 gs =>
    match gs with
    | g :: _ => s1.rmw st g f
    | [] => .ok s1 0

/-- An atomic that returns its old value (R328). -/
def atomicExec (d a : Reg) (st : Fin 16) (size : Fin 4) (f : State → Nat → Option Nat) (s : State) :
    Outcome State Fault Refusal :=
  plainInstr (fun s =>
    let k := 2 ^ size.val
    let addr := (s.g a).toNat
    aligned addr k s ((s.atomicAt st addr k (f s)).thenI s fun s1 old => .done (s1.setG d (word old)))) s

def operandOf (s : State) (b : Reg) (size : Fin 4) : Nat := field (s.g b) 0 (8 * 2 ^ size.val)

def execAmo (d a b : Reg) (st : Fin 16) (size : Fin 4) (op : AtOp) (s : State) : Outcome State Fault Refusal :=
  atomicExec d a st size (fun s old => some (atomicOp op old (operandOf s b size) (8 * 2 ^ size.val))) s

def execLdAtom (d a : Reg) (st : Fin 16) (size : Fin 4) (s : State) : Outcome State Fault Refusal :=
  atomicExec d a st size (fun _ _ => none) s

/-- Compare with the low bits of gD, which is read before it is written (R328). -/
def execAcas (d a b : Reg) (st : Fin 16) (size : Fin 4) (s : State) : Outcome State Fault Refusal :=
  atomicExec d a st size (fun s old => if old = operandOf s d size then some (operandOf s b size) else none) s

/-- A reduction of the acting sequencer: a local read-modify-write, or a record of the outbound caravan (R330). -/
def State.reduceAt (s : State) (st : Fin 16) (addr k : Nat) (op : AtOp) (y : Nat) : XR Unit :=
  (s.planAccess (s.seqAgent st) .red none addr k).bind fun s1 gs =>
    match gs with
    | [] => .ok s1 ()
    | g :: _ =>
      match g.loc with
      | .peer rank _ _ =>
        match s1.accept (s.seqAgent st) addr [(rank, false, .reduce addr k op (word y))] with
        | .ok s2 => .ok s2 ()
        | .error e => .fault e
      | .mem .. => (s1.rmw st g fun old => some (atomicOp op old y (8 * k))).bind fun s2 _ => .ok s2 ()

def execAred (a b : Reg) (st : Fin 16) (size : Fin 4) (op : AtOp) (s : State) : Outcome State Fault Refusal :=
  plainInstr (fun s =>
    let k := 2 ^ size.val
    let addr := (s.g a).toNat
    aligned addr k s ((s.reduceAt st addr k op (operandOf s b size)).thenI s fun s1 _ => .done s1)) s

/-! ### Multicast (R216, R397) -/

/-- Ranks that group `g` of the table at MCBASE names and that are live (R216). -/
def State.mcMembers (s : State) (x : Ctx) (g : Nat) : List Nat :=
  (List.range 4096).filter fun r =>
    bitsOf (s.readUnder (x.mcbase.toNat + 512 * g + r / 8) 0).toNat (r % 8) 1 == 1 && x.live.getLsbD r

/-- The leaf checks of an MCST: APER 1, PW, and RAP for a reduction. -/
def State.mcLeaf (s : State) (w : Agent) (red : Bool) (va : Nat) : XR Unit :=
  let x := s.ctxAt w.ctx
  if x.inWindow va then
    (if (x.vaultDecode va).isNone then .fault (accFault cACCESS 0x07 va) else .fault (accFault cACCESS 0x08 va))
  else
    (s.leafOf w va).bind fun s1 le =>
      let e := le.2
      if leafAper e != 1 then .fault (accFault cACCESS 0x08 va)
      else if !leafBit e 5 then .fault (accFault cACCESS 0x02 va)
      else if red && !leafBit e 8 then .fault (accFault cREMOTE 0 va)
      else .ok s1 ()

/-- `McstExec` of R397 after the alignment check. Its place in the order of the sequencer is that of a store in stream `st`, so the earlier
plain stores of the stream are performed first (R184). -/
def State.multicast (s : State) (st : Fin 16) (addr k : Nat) (op : AtOp) (y : Nat) (g : Nat) : XR Unit :=
  let w := s.seqAgent st
  let x := s.myCtx
  let red := op != .swap
  if inAperture addr then .fault (accFault cACCESS 0x0B addr)
  else if !x.joined then .fault (accFault cACCESS 0x08 addr)
  else
    match s.footFault w (if red then .red else .write) none addr k with
    | some f => .fault f
    | none =>
      (s.mcLeaf w red addr).bind fun s1 _ =>
        let base := x.mcbase.toNat + 512 * g
        if 2 ^ 39 ≤ base then .stop base
        else
          match (List.range 512).find? fun i => s.isBad (base + i) with
          | some i => .fault ⟨cUNCORR, 0x01, 0, word addr, ueOf (base + i)⟩
          | none =>
            let body : RecBody := if red then .reduce addr k op (word y) else
              .store ((bytesOf k y).zipIdx.map fun b => (addr + b.2, b.1))
            match s1.mcMembers x g with
            | [] => .fault (accFault cACCESS 0x0C addr)
            | ms =>
              let s2 := s1.performBefore (some st) []
              match (s2.correct ((List.range 512).map (base + ·))).accept w addr (ms.map fun r => (r, false, body)) with
              | .ok s3 => .ok s3 ()
              | .error e => .fault e

def execMcst (g a b : Reg) (st : Fin 16) (size : Fin 4) (op : AtOp) (s : State) : Outcome State Fault Refusal :=
  plainInstr (fun s =>
    let k := 2 ^ size.val
    let addr := (s.g a).toNat
    aligned addr k s
      ((s.multicast st addr k op (operandOf s b size) (field (s.g g) 0 8)).thenI s fun s1 _ => .done s1)) s

end Sys2Proof.Machine
end

