-- ==== Sys2Proof/Machine/StepGrp.lean ====
section
/-! DEFINITION. The step group, major 0x26 (R219 to R236, R351, R352, R371, R372, R407 to R410): SSEAL, SSTAT, SWAIT, CRULE, IWDEF. -/

namespace Sys2Proof.Machine

open Host (Outcome)

/-- Step `t` is before step `u`, modulo 2^32 (R212). -/
def stepBefore (t u : BitVec 32) : Bool := decide (1 ≤ (u - t).toNat) && decide ((u - t).toNat < 2 ^ 31)

/-- The acting cell is the OWNER of its context and a conflict waits to be reported: the trap of R232, which clears every report. -/
def conflictFirst (k : State → IRes) (s : State) : IRes :=
  let x := s.myCtx
  match x.conflicts with
  | [] => k s
  | c :: _ =>
    if s.cell.val = x.owner then
      .fixed ((s.setCtx s.ctxIx { x with conflicts := [] }).takeTrap (trapOf cCONFLICT 0 c.2))
    else k s

/-! ### SSEAL (R225, R408) -/

/-- A turn of this mc that comes before an SSEAL of sequencer `q` of cell `c`: an issue, a late one of a lower SEQ of the cell, and a
take of the cell that still waits, with the late issue behind it. -/
def Turn.beforeSeal (c : Fin 256) (q : Role) : Turn → Bool
  | .issue .. => true
  | .late c' q' => c' == c && decide (roleIx q' < roleIx q)
  | .event (.sequencerWake c' _) => c' == c
  | .event _ | .outside _ => false

/-- Sealing step s := STEP: its definitions go with the seal (R221, R225). -/
def State.sealStep (s : State) (d : Reg) : State :=
  let s1 := s.performMine
  let x := s1.myCtx
  (s1.setCtx s1.ctxIx { x with
    step := x.step + 1
    sealJobs := x.sealJobs ++ [⟨x.step, false, x.newDefs⟩]
    newDefs := [] }).setG d (x.step.zeroExtend 64)

/-- The refusals of R225 in order, then the seal. -/
def State.ssealBody (d : Reg) (s : State) : IRes :=
  let x := s.myCtx
  if s.cell.val != x.owner then .done (s.setG d stNOTOWNER)
  else if !x.joined then .done (s.setG d stBOUNDS)
  else if stepBefore x.applied (x.step - BitVec.ofNat 32 x.lead) then .done (s.setG d stAHEAD)
  else .done (s.sealStep d)

/-- The step unit takes SSEAL last in its cycle, and several in ascending SEQ order: while a turn that comes before it is still to come,
its turn moves to the end (R408). -/
def execSseal (d : Reg) (s : State) : Outcome State Fault Refusal :=
  if s.agenda.any (Turn.beforeSeal s.cell s.role) then .next { s with agenda := s.agenda ++ [.late s.cell s.role] }
  else plainInstr (conflictFirst (State.ssealBody d)) s

/-! ### SSTAT (R233, R234) -/

/-- The result of a destination, with what never reached it (R231 puts cause 0x05 first). -/
def DestEntry.total (e : DestEntry) : DestResult :=
  let r := e.result.getD ⟨0, 0, 0⟩
  if e.lost = 0 then r else { r with failedBytes := r.failedBytes + e.lost, cause := 0x05 }

def destState (r : DestResult) : Nat := if r.cause != 0 || r.failedBytes != 0 then 2 else if r.conflicts != 0 then 3 else 1

def destWord (r : DestResult) : Word :=
  word (min r.conflicts 0x7FFF * 2 ^ 48 + min r.failedBytes (2 ^ 32 - 1) * 2 ^ 16 + r.cause.toNat * 2 ^ 8 + destState r)

def BoundRec.failures (r : BoundRec) : Nat := (r.dests.filter fun e => destState e.total == 2).length

def BoundRec.summary (r : BoundRec) : Word :=
  let nconf := (r.dests.filter fun e => e.total.conflicts != 0).length
  word ((if r.failures = 0 then 0 else 2 ^ 62) + nconf * 2 ^ 26 + r.failures * 2 ^ 13 + r.dests.length)

/-- `SSTAT` for step `t` and selector `r` (R234). -/
def Ctx.sstat (x : Ctx) (t : BitVec 32) (r : Nat) : Word :=
  if !x.joined || (4096 ≤ r && r ≤ 0xFFFE) then stBOUNDS
  else if !stepBefore t x.step then stBOUNDS
  else if 16 < (x.step - t).toNat then stSTALE
  else if x.sealJobs.any fun j => j.step == t && !j.sent then stBUSY
  else
    match x.records.find? (·.step == t) with
    | none => stSTALE
    | some b =>
      if !b.complete then stBUSY
      else if r = 0xFFFF then b.summary
      else
        match b.dests.find? (·.rank == r) with
        | some e => destWord e.total
        | none => 0

def execSstat (d a b : Reg) (s : State) : Outcome State Fault Refusal :=
  plainInstr (conflictFirst fun s => .done (s.setG d (s.myCtx.sstat ((s.g a).truncate 32) (field (s.g b) 0 16)))) s

/-! ### SWAIT (R228, R410) -/

/-- Boundary `t` has been applied here. -/
def Ctx.hasApplied (x : Ctx) (t : BitVec 32) : Bool := stepBefore t x.applied

def execSwait (d a : Reg) (t : Bool) (s : State) : Outcome State Fault Refusal :=
  runInstr allRoles .any 4 (conflictFirst fun s =>
    let x := s.myCtx
    let n : BitVec 32 := (s.g a).truncate 32
    match s.me.latch with
    | some v => .done (s.setG d v)
    | none =>
      if !x.joined || !stepBefore n x.step then .done (s.setG d stBOUNDS)
      else if x.hasApplied n then .done (s.setG d stOK)
      else if s.me.wintmo = 0 then expired t d (n.zeroExtend 64) s
      else .wait s (.step n t d s.me.wintmo.toNat 0 false)) s

/-! ### Window definitions: IWDEF and CRULE (R219 to R222, R352, R372) -/

/-- The definition of a window of this device in force for the running step. -/
def Ctx.inForce (x : Ctx) (id : Nat) : Option WinDef := (x.winsOf x.rank x.step).find? (·.id == id)

/-- The change of a window of this device that does not govern the running step yet, a deletion among them. -/
def Ctx.pendingDef (x : Ctx) (id : Nat) : Option WinDef :=
  x.wins.find? fun d => d.rank == x.rank && d.id == id && stepBefore x.step d.fromStep

/-- A definition or rule of the running step, which its seal carries (R221). -/
def State.recordDef (s : State) (w : WinDef) : State :=
  let x := s.myCtx
  s.setCtx s.ctxIx { x with wins := x.wins ++ [w], newDefs := x.newDefs ++ [w] }

/-- `CruleExec` of R352. -/
def execCrule (d a b : Reg) (s : State) : Outcome State Fault Refusal :=
  plainInstr (fun s =>
    let x := s.myCtx
    let id := (s.g a).toNat
    let rule := (s.g b).toNat
    if !x.joined || 63 < id || 2 < rule then .done (s.setG d stBOUNDS)
    else if (x.pendingDef id).isSome then .done (s.setG d stBUSY)
    else
      match x.inForce id with
      | none => .done (s.setG d stBOUNDS)
      | some w => .done ((s.recordDef { w with rule := rule, fromStep := x.step + 4 }).setG d stOK)) s

/-- The definition that a descriptor gives window `id` (R219); a new one takes the rule FAULT. -/
def winOf (x : Ctx) (id : Nat) (bs : List Byte) : WinDef :=
  ⟨x.rank, id, natAt bs 0 8, bitsOf (natAt bs 8 8) 0 40, bitsOf (natAt bs 0x10 4) 0 12, bitsOf (natAt bs 0x10 4) 16 12,
    natAt bs 0x14 4, 0, x.step + 4⟩

/-- A reserved field of a descriptor is not zero. -/
def winReserved (bs : List Byte) : Bool :=
  bitsOf (natAt bs 8 8) 40 24 != 0 || bitsOf (natAt bs 0x10 4) 28 4 != 0 || bitsOf (natAt bs 0x10 4) 12 4 != 0 || natAt bs 0x18 8 != 0

def winsOverlap (a b : WinDef) : Bool :=
  a.size != 0 && b.size != 0 && decide (a.base < b.base + b.size) && decide (b.base < a.base + a.size)

/-- Every definition of the other ids that governs the running step or waits to govern a later one. -/
def Ctx.otherDefs (x : Ctx) (id : Nat) : List WinDef :=
  (List.range 64).flatMap fun i => if i = id then [] else (x.inForce i).toList ++ (x.pendingDef i).toList

/-- Live ranks of a sender range (R219). -/
def Ctx.senders (x : Ctx) (w : WinDef) : Nat := onesBelow (w.hi + 1 - w.lo) (x.live.toNat / 2 ^ w.lo)

def Ctx.demand (x : Ctx) (w : WinDef) : Nat := if w.size = 0 then 0 else w.quota * x.senders w * (x.lead + 2)

/-- The capacity of R222 with `w` in place of what it replaces. -/
def Ctx.capacityFits (x : Ctx) (w : WinDef) : Bool :=
  let rest := (List.range 64).map fun i =>
    if i = w.id then 0
    else match (x.pendingDef i).or (x.inForce i) with | some e => x.demand e | none => 0
  decide (2 * (rest.sum + x.demand w) ≤ x.ispill * 2 ^ 20 + 524288)

/-- The checks of R222 on a descriptor, in order; OK where all hold. -/
def Ctx.iwdefStatus (x : Ctx) (id : Nat) (bs : List Byte) : Word :=
  let w := winOf x id bs
  if winReserved bs then stBOUNDS
  else if w.size = 0 then
    if (x.pendingDef id).isSome then stBUSY else if (x.inForce id).isNone then stBOUNDS else stOK
  else if w.hi < w.lo || w.base % 32 != 0 || w.size % 32 != 0 then stBOUNDS
  else if (x.otherDefs id).any fun e => winsOverlap e w then stBOUNDS
  else if (x.pendingDef id).isSome then stBUSY
  else if !x.capacityFits w then stQUOTA
  else stOK

/-- `IwdefExec` of R372. -/
def execIwdef (d a b : Reg) (s : State) : Outcome State Fault Refusal :=
  plainInstr (fun s =>
    let x := s.myCtx
    let p := (s.g a).toNat
    let id := (s.g b).toNat
    if !x.joined then .done (s.setG d stBOUNDS)
    else if p % 32 != 0 then .trap (trapOf cMISALIGNED 0 (s.g a))
    else
      s.withSlot ((s.readBytes (s.seqAgent 0) none p 32).thenI s fun s1 bs =>
        if 63 < id then .done (s1.setG d stBOUNDS)
        else
          let st := x.iwdefStatus id bs
          if st = stOK then .done ((s1.recordDef (winOf x id bs)).setG d st) else .done (s1.setG d st))) s

end Sys2Proof.Machine
end

