-- ==== Sys2Proof/Machine/Fabric.lean ====
section
/-! DEFINITION. The step unit and the fabric at work: seals, releases and the apply of a boundary (R225 to R234), reads that peers
make here (R155, R217), packets in transit and links (R239, R240), absence (R209, R237), walks and performed stores (R100, R182). -/

namespace Sys2Proof.Machine

open Host (Outcome)

/-! ### Records on their way (R214, R225) -/

/-- Every write of a sealed step has been accepted and every read of it has ended (R218, R225). -/
def State.stepQuiet (s : State) (ctx : Fin 64) (t : BitVec 32) : Bool :=
  !(s.cmds.any fun m => m.ctx == ctx && m.step == t && m.eng != Eng.coll) &&
  !(s.fab.reads.any fun r => r.ctx == ctx && r.step == t && r.ans.isNone)

/-- Step `t` is sealed here and its seal has not been sent. -/
def Ctx.sealPends (x : Ctx) (t : BitVec 32) : Bool := x.sealJobs.any fun j => j.step == t && !j.sent

def OutRec.marked (r : OutRec) (order : Nat) (sent arrived : Bool) : OutRec :=
  if r.wr.order == order then { r with sent := r.sent || sent, arrived := r.arrived || arrived } else r

/-- Marking a record, by its order number, as sent or as arrived. -/
def State.markRec (s : State) (order : Nat) (sent arrived : Bool) : State :=
  { s with fab := { s.fab with outRecs := s.fab.outRecs.map fun r => r.marked order sent arrived } }

/-- A record that may leave: its step is sealed and quiet. -/
def State.mayLeave (s : State) (r : OutRec) : Bool :=
  !r.sent && (s.ctxAt r.ctx).sealPends r.wr.step && (s.ctxAt r.ctx).live.getLsbD r.dst && s.stepQuiet r.ctx r.wr.step

/-- The bytes of a record in granules with a double-bit error: free values. -/
def lostBody (order : Nat) : RecBody → RecBody
  | .store bs => .store (bs.zipIdx.map fun b => (b.1.1, Config.lostByte (2 ^ 61 + order * 64 + b.2)))
  | .reduce a n op _ => .reduce a n op (word (natOf ((List.range 8).map fun i => Config.lostByte (2 ^ 61 + order * 64 + i))))

/-- A record as it is read from the outbound or the inbound Caravan SRAM (R106, R109): a single-bit error is corrected and counted; a
double-bit error is logged, and, since the spec names no fault for it, the record goes on with free bytes (log entry 11). -/
def State.readRecord (s : State) (inbound : Bool) (w : CaravanRec) (e : RecErr) : State × CaravanRec :=
  let mem : Fin 45 := if inbound then 0x29 else 0x28
  match e with
  | .none => (s, w)
  | .single => (s.countCe mem, w)
  | .double => (s.logUe ⟨mem, 0, word ((Config.recordAt inbound w.order).val / 8 * 8)⟩ false, { w with body := lostBody w.order w.body })

/-- Sending every record that may leave and that a route takes. -/
def State.sendRecords (s : State) : State :=
  (s.fab.outRecs.filter s.mayLeave).foldl (fun (t : State) r =>
    let u := t.readRecord false r.wr r.err
    match u.1.send (t.ctxAt r.ctx) .caravan r.dst r.wr.agent (.record u.2) with
    | some t1 => t1.markRec r.wr.order true false
    | none => t) s

/-- No route takes packets to a rank now. -/
def State.cutOff (s : State) (x : Ctx) (dst : Nat) : Bool := dst != x.rank && (s.liveHops dst).isEmpty

/-- A record has reached its staging or can reach none (R225, R231). -/
def State.settled (s : State) (r : OutRec) : Bool :=
  r.arrived || !(s.ctxAt r.ctx).live.getLsbD r.dst || s.cutOff (s.ctxAt r.ctx) r.dst

/-- A record reaches the inbound staging (R214); one for a job that no context here holds is refused (R286). -/
def State.stageRecord (s : State) (p : Packet) (w : CaravanRec) : State :=
  match s.ctxOfJob p.job with
  | none => s.answerBack p (.report w.step ⟨(recAddrs w.body).length, 0x02, 0⟩)
  | some ctx =>
    let s1 := { s with fab := { s.fab with inRecs := s.fab.inRecs ++ [⟨ctx, p.src, w, .none⟩] } }
    if p.src = (s.ctxAt ctx).rank then s1.markRec w.order true true else s1

def execCaravanRecordArrival (p : Packet) (s : State) : Outcome State Fault Refusal :=
  match p.body with
  | .record w => .next (s.once p fun u => u.stageRecord p w)
  | _ => .next s

/-! ### Boundary records (R233) -/

/-- An entry whose result is known. -/
def DestEntry.done (e : DestEntry) : Bool := e.result.isSome || e.lost == e.bytes

/-- A record becomes complete once every destination has reported; a failure in it sets PARTIAL. -/
def Ctx.closeRec (x : Ctx) (t : BitVec 32) : Ctx :=
  match x.records.find? (fun r => r.step == t) with
  | none => x
  | some r =>
    if !r.complete && !x.sealPends t && stepBefore t x.step && r.dests.all (·.done) then
      { x with
        records := x.records.map fun y => if y.step == t then { y with complete := true } else y
        partialEnd := x.partialEnd || r.failures != 0 }
    else x

def DestEntry.reported (e : DestEntry) (rank : Nat) (res : DestResult) : DestEntry :=
  if e.rank == rank && e.result.isNone then { e with result := some res } else e

def BoundRec.reported (r : BoundRec) (t : BitVec 32) (rank : Nat) (res : DestResult) : BoundRec :=
  if r.step == t && !r.complete then { r with dests := r.dests.map fun e => e.reported rank res } else r

/-- The records of step `t` that went to a destination, as one entry. -/
def destEntry (l : List OutRec) (dst : Nat) : DestEntry :=
  let mine := l.filter fun r => r.dst == dst
  let size := fun (m : List OutRec) => (m.map fun r => (recAddrs r.wr.body).length).sum
  ⟨dst, size mine, size (mine.filter fun r => !r.arrived), none⟩

/-- An entry with the refusal that came before the seal was sent, if one did. -/
def DestEntry.withEarly (e : DestEntry) (early : List DestEntry) : DestEntry :=
  match early.find? (fun d => d.rank == e.rank) with
  | some d => { e with result := d.result }
  | none => e

/-- The boundary record of a step whose seal is sent. -/
def State.openRec (s : State) (ctx : Fin 64) (t : BitVec 32) : BoundRec :=
  let l := s.fab.outRecs.filter fun r => r.ctx == ctx && r.wr.step == t
  let early := match (s.ctxAt ctx).records.find? (fun r => r.step == t) with | some r => r.dests | none => []
  ⟨t, (distinct (l.map (·.dst))).map fun r => (destEntry l r).withEarly early, false, none⟩

def failResult (n : Nat) (c : BitVec 8) (r : DestResult) : DestResult :=
  { r with failedBytes := r.failedBytes + n, cause := if r.cause = 0 then c else r.cause }

/-- The record of a step whose seal is still to be sent, with one more refusal in it. -/
def Ctx.noteEarly (x : Ctx) (t : BitVec 32) (src : Nat) (res : DestResult) : Ctx :=
  let old := match x.records.find? (fun r => r.step == t) with | some r => r.dests | none => []
  let e : DestEntry :=
    match old.find? (fun d => d.rank == src) with
    | some d => { d with result := some (failResult res.failedBytes res.cause (d.result.getD ⟨0, 0, 0⟩)) }
    | none => ⟨src, 0, 0, some res⟩
  { x with records := (x.records.filter fun r => r.step != t) ++ [⟨t, (old.filter fun d => d.rank != src) ++ [e], false, none⟩] }

/-- A destination's report; before the seal is sent it is the refusal of records by a device that holds no such job (R286). -/
def State.takeReport (s : State) (ctx : Fin 64) (src : Nat) (t : BitVec 32) (res : DestResult) : State :=
  let x := s.ctxAt ctx
  if x.sealPends t || !stepBefore t x.step then
    let s1 := s.setCtx ctx (x.noteEarly t src res)
    { s1 with fab := { s1.fab with outRecs := s1.fab.outRecs.map fun r =>
      if r.ctx == ctx && r.dst == src && r.wr.step == t && r.sent then { r with arrived := true } else r } }
  else s.setCtx ctx (({ x with records := x.records.map fun r => r.reported t src res } : Ctx).closeRec t)

def execBoundaryResultReport (p : Packet) (s : State) : Outcome State Fault Refusal :=
  match p.body, s.ctxOfJob p.job with
  | .report t res, some ctx => .next (s.once p fun u => u.takeReport ctx p.src t res)
  | _, _ => .next s

/-- Nothing of what reached the destination is known to have been applied; what never did is counted as lost already. -/
def DestEntry.timedOut (e : DestEntry) : DestEntry := if e.done then e else { e with result := some ⟨e.bytes - e.lost, 0x05, 0⟩ }

def BoundRec.timedOut (r : BoundRec) (t : BitVec 32) : BoundRec :=
  if r.step == t then { r with dests := r.dests.map (·.timedOut) } else r

/-- 25 µs after this device applied the boundary, a destination that has not reported has failed (R233). -/
def execBoundaryRecordTimeout (ctx : Fin 64) (t : BitVec 32) (s : State) : Outcome State Fault Refusal :=
  let x := s.ctxAt ctx
  match x.records.find? (fun r => r.step == t && !r.complete) with
  | none => .next s
  | some r =>
    match r.appliedAt with
    | none => .next s
    | some since =>
      if s.clk.fs - since < us25 then .next s
      else .next (s.setCtx ctx (({ x with records := x.records.map fun y => y.timedOut t } : Ctx).closeRec t))

/-! ### Seals and releases (R221, R225, R226) -/

/-- Children whose seals are awaited: the live ones. -/
def Ctx.liveChildren (x : Ctx) : List Nat := x.children.filter fun r => x.live.getLsbD r

/-- The own seal and every awaited child's seal of a step are here. -/
def Ctx.sealsHeld (x : Ctx) (j : SealJob) : Bool :=
  j.sent && x.liveChildren.all fun r => x.childSeals.any fun c => c.rank == r && c.step == j.step

def Ctx.sealDefs (x : Ctx) (j : SealJob) : List WinDef :=
  j.defs ++ (x.childSeals.filter fun c => c.step == j.step).flatMap (·.defs)

def Ctx.dropSeal (x : Ctx) (j : SealJob) : Ctx :=
  { x with
    sealJobs := x.sealJobs.filter fun y => y.step != j.step
    childSeals := x.childSeals.filter fun c => c.step != j.step }

/-- A released boundary is noted with the definitions that its seals carried, and passed down the tree. -/
def State.noteRelease (s : State) (ctx : Fin 64) (t : BitVec 32) (defs : List WinDef) : State :=
  let x := s.ctxAt ctx
  let s1 := s.setCtx ctx { x with
    released := x.released ++ [t]
    wins := x.wins ++ defs.filter fun d => d.rank != x.rank }
  x.liveChildren.foldl (fun (u : State) r => u.send! x .request r 0 (.release t defs)) s1

/-- Forwarding the seals that are complete here, oldest step first: to the parent, or, at the root, as the release. -/
def State.forwardSeals : Nat → State → Fin 64 → State
  | 0, s, _ => s
  | n + 1, s, ctx =>
    let x := s.ctxAt ctx
    match x.sealJobs with
    | [] => s
    | j :: _ =>
      if !x.sealsHeld j then s
      else
        let s1 := s.setCtx ctx (x.dropSeal j)
        if x.isRoot then State.forwardSeals n (s1.noteRelease ctx j.step (x.sealDefs j)) ctx
        else State.forwardSeals n (s1.send! x .request x.parent 0 (.sealUp j.step (x.sealDefs j))) ctx

/-- The seal that may be sent next: the oldest one not sent (R408), with every write of its step in its receiver's staging. -/
def State.sealReady (s : State) (ctx : Fin 64) : Option SealJob :=
  (s.ctxAt ctx).sealJobs.find? (fun j => !j.sent) |>.filter fun j =>
    s.stepQuiet ctx j.step &&
    (s.fab.outRecs.all fun r => r.ctx != ctx || r.wr.step != j.step || s.settled r)

/-- The packet carries a record of this context and step that is reported as one that reached no staging. -/
def Ctx.isLost (x : Ctx) (lost : List OutRec) (p : Packet) : Bool :=
  match p.body with
  | .record w => p.job == x.job && p.src == x.rank && lost.any fun r => r.wr.order == w.order
  | _ => false

/-- Sending the seal of a step: its boundary record opens, and its records leave the caravan. A record that is reported with cause 0x05
is not sent again. -/
def State.sendSeal (s : State) (ctx : Fin 64) (j : SealJob) : State :=
  let x := s.ctxAt ctx
  let recs := (x.records.filter fun r => r.step != j.step) ++ [s.openRec ctx j.step]
  let y : Ctx := { x with
    records := keepLast 16 recs
    sealJobs := x.sealJobs.map fun k => if k.step == j.step then { k with sent := true } else k }
  let s1 := s.setCtx ctx (y.closeRec j.step)
  let lost := s1.fab.outRecs.filter fun r => r.ctx == ctx && r.wr.step == j.step && !r.arrived
  let s2 := { s1 with fab := { s1.fab with
    outRecs := s1.fab.outRecs.filter fun r => r.ctx != ctx || r.wr.step != j.step
    unacked := s1.fab.unacked.filter fun u => !x.isLost lost u.2 } }
  State.forwardSeals (y.sealJobs.length + 1) s2 ctx

def execSealSend (ctx : Fin 64) (s : State) : Outcome State Fault Refusal :=
  match s.sealReady ctx with
  | some j => .next (s.sendSeal ctx j)
  | none => .next s

def State.takeSeal (s : State) (ctx : Fin 64) (src : Nat) (t : BitVec 32) (defs : List WinDef) : State :=
  let x := s.ctxAt ctx
  State.forwardSeals (x.sealJobs.length + 1) (s.setCtx ctx { x with childSeals := x.childSeals ++ [⟨src, t, defs⟩] }) ctx

def execSealArrival (p : Packet) (s : State) : Outcome State Fault Refusal :=
  match p.body, s.ctxOfJob p.job with
  | .sealUp t defs, some ctx => .next (s.once p fun u => u.takeSeal ctx p.src t defs)
  | _, _ => .next s

def execBoundaryRelease (p : Packet) (s : State) : Outcome State Fault Refusal :=
  match p.body, s.ctxOfJob p.job with
  | .release t defs, some ctx => .next (s.once p fun u => u.noteRelease ctx t defs)
  | _, _ => .next s

/-! ### Judging the records of a step (R231) -/

/-- A record that is applied, with the key and the key material of each of its bytes. -/
structure Placed where
  src : Nat
  wr : CaravanRec
  at_ : List (Nat × Nat × Nat)
  deriving DecidableEq, Repr

inductive Judged where
  | place (s : State) (l : List (Nat × Nat × Nat))
  | fail (s : State) (cause : BitVec 8)
  /-- the translation of an address waits for a walk (R100) -/
  | wait (s : State)
  | stop (pa : Nat)

def inWin (d : WinDef) (a : Nat) : Bool := decide (d.base ≤ a) && decide (a < d.base + d.size)

/-- The receiver's own accesses, under the number of what it does: a boundary that it applies, a read that it serves, or a message of a
collective. -/
def State.hereAgent (s : State) (ctx : Fin 64) (work : Nat) : Agent := ⟨ctx, none, none, 0, 0, (s.ctxAt ctx).step, none, work⟩

/-- Numbers of the work: a boundary of a context, and a packet by its sender and its sequence number. -/
def applyWork (ctx : Fin 64) : Nat := 2 ^ 44 + ctx.val

def packetWork (p : Packet) : Nat := 2 ^ 45 + (p.seqNo * 4096 + p.src) * 2 ^ 16 + p.job

def causeOf (code : BitVec 8) : BitVec 8 := if code = cPAGE then 0x01 else if code = cUNCORR then 0x03 else 0x02

/-- The piece lies where the sender's leaf wants it: APER 2 for a leaf with APER 3, APER 0 or a vault otherwise (R94). -/
def servable (host : Bool) (g : Seg) : Bool :=
  match g.loc with
  | .mem k _ _ => if host then decide (2 ^ 56 ≤ k) else decide (k < 2 ^ 41)
  | .peer .. => false

/-- Key and key material of every byte of pieces that lie where the sender's leaf wants them; none where one lies elsewhere. -/
def placedBytes (host : Bool) (gs : List Seg) : Option (List (Nat × Nat × Nat)) :=
  (gs.mapM fun (g : Seg) =>
    match g.loc with
    | .mem k m _ => if servable host g then some ((List.range g.len).map fun i => (g.va + i, k + i, m)) else none
    | .peer .. => none).map List.flatten

/-- Addresses of one record in runs that do not cross a granule: a store's bytes lie in one 32-byte sector. -/
def recPieces (b : RecBody) : List (Nat × Nat) := (recAddrs b).map fun a => (a, 1)

def recKind : RecBody → AccKind
  | .store _ => .write
  | .reduce .. => .red

/-- The cause of R231 that one record meets first in the order 0x04, 0x06, 0x01, 0x02, 0x03, or where its bytes go. The senders of a
window are the live ranks of its range (R219). DEDUCED (log entry 39): a record that was written through a leaf with APER 3 must land on
APER 2 (R94), where the words of R231 alone would fail it. -/
def State.judge (s : State) (ctx : Fin 64) (wins : List WinDef) (src : Nat) (w : CaravanRec) : Judged :=
  let as := recAddrs w.body
  if as.any fun a => !(wins.any fun d => inWin d a) then .fail s 0x04
  else if as.any fun a => wins.any fun d => inWin d a && (src < d.lo || d.hi < src || !(s.ctxAt ctx).live.getLsbD src) then
    .fail s 0x06
  else
    match s.translateAll (s.hereAgent ctx (applyWork ctx)) (recKind w.body) (recPieces w.body) with
    | .fault f => .fail (s.logUe? f.ue) (causeOf f.code)
    | .stall _ => .fail s 0x02
    | .pend s1 => .wait s1
    | .stop pa => .stop pa
    | .ok s1 gs =>
      match placedBytes w.host gs with
      | none => .fail s1 0x02
      | some l =>
        let bad :=
          match w.body with
          | .store _ => (s1.badWrite gs).bind (·.ue)
          | .reduce .. => (l.find? fun x => s1.isBad x.2.1).bind fun x => ueOf x.2.1
        match bad with
        | some u => .fail (s1.logUe u false) 0x03
        | none => .place s1 l

/-- What a source is told, as it builds up. -/
abbrev Reports := List (Nat × DestResult)

def Reports.update (l : Reports) (src : Nat) (f : DestResult → DestResult) : Reports :=
  if l.any fun x => x.1 == src then l.map fun x => if x.1 == src then (src, f x.2) else x
  else l ++ [(src, f ⟨0, 0, 0⟩)]

def conflictResult (r : DestResult) : DestResult := { r with conflicts := r.conflicts + 1 }

/-- Why the records of a step cannot all be judged yet: an address that does not exist, or a walk that is awaited. -/
inductive Unjudged where
  | stop (pa : Nat)
  | wait (s : State)

/-- Judging every record of a step. -/
def State.judgeAll (s0 : State) (ctx : Fin 64) (wins : List WinDef) : List InRec → Except Unjudged (State × List Placed × Reports)
  | [] => .ok (s0, [], [])
  | r :: rs =>
    let u := s0.readRecord true r.wr r.err
    match u.1.judge ctx wins r.src u.2 with
    | .stop pa => .error (.stop pa)
    | .wait s1 => .error (.wait s1)
    | .place s1 l =>
      match s1.judgeAll ctx wins rs with
      | .error e => .error e
      | .ok (s2, ps, rep) => .ok (s2, ⟨r.src, u.2, l⟩ :: ps, Reports.update rep r.src id)
    | .fail s1 c =>
      match s1.judgeAll ctx wins rs with
      | .error e => .error e
      | .ok (s2, ps, rep) =>
        .ok (s2, ps, Reports.update rep r.src fun x => { failResult (recAddrs r.wr.body).length c x with cause := c })

/-! ### Applying a boundary (R230) -/

/-- One byte that a store record holds: its rank, agent, value, key and key material. -/
structure HeldByte where
  rank : Nat
  agent : Nat
  val : Byte
  key : Nat
  mat : Nat
  deriving DecidableEq, Repr

def heldBytes (a : Nat) (ps : List Placed) : List HeldByte :=
  ps.filterMap fun p =>
    match p.wr.body with
    | .store bs =>
      (bs.find? (·.1 == a)).bind fun b => (p.at_.find? (·.1 == a)).map fun k => ⟨p.src, p.wr.agent, b.2, k.2.1, k.2.2⟩
    | .reduce .. => none

/-- Each rank's byte is the one of its highest agent id. -/
def topOf (l : List HeldByte) : List HeldByte := l.filter fun h => l.all fun g => g.rank != h.rank || decide (g.agent ≤ h.agent)

/-- The byte that wins: of the lowest rank under FAULT and LOW_WINS, of the highest under HIGH_WINS. -/
def winner (rule : Nat) (l : List HeldByte) : Option HeldByte :=
  l.find? fun h => l.all fun g => if rule = 2 then decide (g.rank ≤ h.rank) else decide (h.rank ≤ g.rank)

/-- `LogConflict` of R230. -/
def State.logConflict (s : State) (ctx : Fin 64) (t : BitVec 32) (d : WinDef) (a : Nat) : State :=
  let x := s.ctxAt ctx
  (s.setCtx ctx { x with
    conflict := true
    conflicts := if x.conflicts.any fun c => c.1 == t then x.conflicts else x.conflicts ++ [(t, word a)] }).sandglass 0x0009 0x400
      (d.id + ctx.val * 2 ^ 6 + t.toNat % 2 ^ 24 * 2 ^ 12) (word a)

/-- Pass 1 for one byte. -/
def State.applyByte (ctx : Fin 64) (t : BitVec 32) (wins : List WinDef) (ps : List Placed) (sr : State × Reports) (a : Nat) :
    State × Reports :=
  match wins.find? (fun d => inWin d a) with
  | none => sr
  | some d =>
    let l := topOf (heldBytes a ps)
    match winner d.rule l with
    | none => sr
    | some h =>
      let s1 := sr.1.writeBytes [(h.key, h.val, h.mat)]
      let ranks := distinct (l.map (·.rank))
      if 2 ≤ ranks.length && d.rule == 0 then
        (s1.logConflict ctx t d a, ranks.foldl (fun r k => Reports.update r k conflictResult) sr.2)
      else (s1, sr.2)

/-- A granule that one store covers whole is repaired before its bytes are taken one by one (R107). -/
def State.repairFor (s : State) (ps : List Placed) : State :=
  ps.foldl (fun (u : State) p =>
    match p.wr.body with
    | .store _ => u.repair (p.at_.map (·.2.1))
    | .reduce .. => u) s

/-- Insertion into a list that rises. -/
def insertNat (x : Nat) : List Nat → List Nat
  | [] => [x]
  | y :: ys => if x < y then x :: y :: ys else if x = y then y :: ys else y :: insertNat x ys

def storeAddrs (ps : List Placed) : List Nat :=
  (ps.flatMap fun p => match p.wr.body with | .store bs => bs.map (·.1) | .reduce .. => []).foldl (fun l a => insertNat a l) []

/-- Order of pass 2: rank, agent id, issue order. -/
def redBefore (a b : Placed) : Bool :=
  decide (a.src < b.src) || (a.src == b.src && (decide (a.wr.agent < b.wr.agent) || (a.wr.agent == b.wr.agent && decide (a.wr.order < b.wr.order))))

def insertRed (x : Placed) : List Placed → List Placed
  | [] => [x]
  | y :: ys => if redBefore x y then x :: y :: ys else y :: insertRed x ys

/-- Pass 2 for one reduction: it reads, so a single-bit error is corrected first (R106). -/
def State.applyReduce (s : State) (p : Placed) : State :=
  match p.wr.body with
  | .store _ => s
  | .reduce _ n op v =>
    let s1 := s.correct (p.at_.map (·.2.1))
    let old := natOf (p.at_.map fun k => s1.readUnder k.2.1 k.2.2)
    s1.writeBytes ((p.at_.zip (bytesOf n (atomicOp op old v.toNat (8 * n)))).map fun x => (x.1.2.1, x.2, x.1.2.2))

/-- Definitions that govern steps from `t` on: of each rank and id the one in force at `t` and those after it (R221). -/
def pruneWins (l : List WinDef) (t : BitVec 32) : List WinDef :=
  (l.filter fun d => !(l.any fun e => e.rank == d.rank && e.id == d.id && stepBefore d.fromStep e.fromStep && !stepBefore t e.fromStep)).map
    fun d => if stepBefore t d.fromStep then d else { d with fromStep := t }

/-- A waiting SWAIT on a boundary that has been applied is satisfied (R228). -/
def Seq.seesStep (q : Seq) (x : Ctx) : Seq :=
  match q.status with
  | .waiting (.step t trap d bound e false) =>
    if x.hasApplied t then { q with status := .waiting (.step t trap d bound e true) } else q
  | _ => q

def State.wakeSteps (s : State) (ctx : Fin 64) : State :=
  { s with cells := vmap (fun (c : Cell) =>
    if c.task.isSome && c.ctx == ctx then { c with seqs := vmap (fun (q : Seq) => q.seesStep (s.ctxAt ctx)) c.seqs } else c) s.cells }

/-- The step state after boundary `t` has been applied, at a time. -/
def Ctx.afterApply (x : Ctx) (t : BitVec 32) (fs : Nat) : Ctx :=
  { x with
    applied := t + 1
    released := x.released.filter (· != t)
    wins := pruneWins x.wins (t + 1)
    records := x.records.map fun r => if r.step == t then { r with appliedAt := some fs } else r }

/-- Steps up to and including `t`. -/
def stepUpTo (u t : BitVec 32) : Bool := u == t || stepBefore u t

/-- Remote lines, staged records and quota counts of steps that are over (R105, R223). -/
def State.dropStep (s : State) (ctx : Fin 64) (t : BitVec 32) : State :=
  { s with fab := { s.fab with
      inRecs := s.fab.inRecs.filter fun r => !(r.ctx == ctx && r.wr.step == t)
      lines := s.fab.lines.filter fun r => !(r.ctx == ctx && stepUpTo r.step t)
      quotaUsed := s.fab.quotaUsed.filter fun k => !(k.1 == ctx.val && stepUpTo (BitVec.ofNat 32 k.2.1) t) } }

/-! ### Serving the reads of peers (R94, R155, R217) -/

/-- The fault that the reader sees. DESIGN CHOICE (log entry 40): an uncorrectable table entry that the peer's own walk meets is told as
detail 0x03, as its data are. -/
def peerFault (code : BitVec 8) : PeerAns :=
  if code = cPAGE then .fault cPAGE 0x04 else if code = cUNCORR then .fault cUNCORR 0x03 else .fault cACCESS 0x08

/-- The answer to a read of `n` bytes at `va`: none while a walk is awaited, or where the address does not exist. -/
def State.servedBytes (s : State) (ctx : Fin 64) (work va n : Nat) (host : Bool) : Except Unjudged (State × PeerAns) :=
  match s.translateAll (s.hereAgent ctx work) .read (pieces (n / 65536 + 2) va n) with
  | .fault f => .ok (s.logUe? f.ue, peerFault f.code)
  | .stall _ => .ok (s, peerFault cACCESS)
  | .pend s1 => .error (.wait s1)
  | .stop pa => .error (.stop pa)
  | .ok s1 gs =>
    if !(gs.all (servable host)) then .ok (s1, peerFault cACCESS)
    else
      match gs.findSome? s1.badRead with
      | some f => .ok (s1.logUe? f.ue, peerFault f.code)
      | none => .ok (s1.correct (segKeys gs), .data (gs.flatMap s1.segBytes))

/-- Boundary t − 1 has been applied here, for a read of step `t`. -/
def Ctx.mayServe (x : Ctx) (t : BitVec 32) : Bool := !stepBefore x.applied t

/-- A read that waits here can be judged again: its boundary has been applied. -/
def State.servableNow (s : State) (w : ServeWait) : Bool :=
  match w.packet.body with
  | .readReq _ _ _ t _ => (s.ctxAt w.ctx).mayServe t
  | _ => false

/-- Keeping a read that waits for its boundary or for a walk. -/
def State.keepServe (s : State) (ctx : Fin 64) (p : Packet) : State :=
  if s.fab.serveWaits.contains ⟨ctx, p⟩ then s
  else { s with fab := { s.fab with serveWaits := s.fab.serveWaits ++ [⟨ctx, p⟩] } }

def State.dropServe (s : State) (p : Packet) : State :=
  { s with fab := { s.fab with serveWaits := s.fab.serveWaits.filter fun w => w.packet != p } }

/-- Answering a read, or keeping it until its boundary has been applied and its walks have ended. -/
def State.serve (s : State) (ctx : Fin 64) (p : Packet) : Outcome State Fault Refusal :=
  match p.body with
  | .readReq id va n t host =>
    if (s.ctxAt ctx).mayServe t then
      match s.servedBytes ctx (packetWork p) va n host with
      | .error (.stop pa) => .fault (.noSuchHbm pa)
      | .error (.wait s1) => .next (s1.keepServe ctx p)
      | .ok (s1, ans) =>
        .next (((s1.dropReads (packetWork p)).dropServe p).send! (s1.ctxAt ctx) .response p.src 0 (.readResp id ans))
    else .next (s.keepServe ctx p)
  | _ => .next s

/-- Reads that waited here are judged again. -/
def serveAll (ctx : Fin 64) : List ServeWait → State → Outcome State Fault Refusal
  | [], s => .next s
  | w :: ws, s =>
    match s.serve ctx w.packet with
    | .next s1 => serveAll ctx ws s1
    | .fault f => .fault f
    | .refused r => .refused r

def State.serveWaiting (s : State) (ctx : Fin 64) : Outcome State Fault Refusal :=
  serveAll ctx (s.fab.serveWaits.filter fun w => w.ctx == ctx) s

/-- The boundary is applied: both passes, the reports to the sources, then whatever waited for it. While a walk is awaited nothing is
applied yet. -/
def State.applyBoundary (s : State) (ctx : Fin 64) (t : BitVec 32) : Outcome State Fault Refusal :=
  let x := s.ctxAt ctx
  let wins := x.winsOf x.rank t
  match s.judgeAll ctx wins (s.fab.inRecs.filter fun r => r.ctx == ctx && r.wr.step == t) with
  | .error (.stop pa) => .fault (.noSuchHbm pa)
  | .error (.wait s1) => .next { s with clk := s1.clk, mem := { s.mem with walks := s1.mem.walks } }
  | .ok (s0, ps, rep) =>
    let s1 := s0.dropReads (applyWork ctx)
    let (s2, rep1) := (storeAddrs ps).foldl (State.applyByte ctx t wins ps) (s1.repairFor ps, rep)
    let s3 := (ps.foldl (fun l p => insertRed p l) []).foldl State.applyReduce s2
    let s4 := (s3.setCtx ctx ((s3.ctxAt ctx).afterApply t s3.clk.fs)).dropStep ctx t
    let s5 := rep1.foldl (fun (u : State) r => u.send! x .response r.1 0 (.report t r.2)) s4
    (s5.wakeSteps ctx).serveWaiting ctx

/-- A released boundary is applied after the one before it (R226). -/
def execBoundaryApply (ctx : Fin 64) (s : State) : Outcome State Fault Refusal :=
  let x := s.ctxAt ctx
  if x.joined && x.released.contains x.applied then s.applyBoundary ctx x.applied else .next s

/-- A read of a peer arrives, or one that waits here is judged again; no context here holds the job of R286, or it is served. -/
def execPeerReadRequest (p : Packet) (s : State) : Outcome State Fault Refusal :=
  match p.body, s.ctxOfJob p.job with
  | .readReq .., some ctx => s.serve ctx p
  | .readReq id .., none => .next ((s.dropServe p).answerBack p (.readResp id (peerFault cACCESS)))
  | _, _ => .next s

def PeerRead.answered (r : PeerRead) (id : Nat) (ans : PeerAns) : PeerRead :=
  if r.id == id && r.ans.isNone then { r with ans := some ans } else r

def State.answerRead (s : State) (id : Nat) (ans : PeerAns) : State :=
  { s with fab := { s.fab with reads := s.fab.reads.map fun r => r.answered id ans } }

def execPeerReadResponse (id : Nat) (ans : PeerAns) (s : State) : Outcome State Fault Refusal := .next (s.answerRead id ans)

/-- No answer within 25 µs: LINK_DOWN (R155). -/
def execRemoteReadTimeout (id : Nat) (s : State) : Outcome State Fault Refusal :=
  match s.fab.reads.find? (fun r => r.id == id) with
  | some r => if r.ans.isNone && us25 ≤ s.clk.fs - r.since then .next (s.answerRead id (.fault cLINK 0)) else .next s
  | none => .next s

/-! ### The bound of a stall on an inbound window (R229) -/

/-- The bound of a stall in a context. -/
def State.stallBound (s : State) (ctx : Fin 64) : Nat := (s.ctxAt ctx).stmo.toNat * 1024

def execInboundStallTimeout (c : Fin 256) (q : Role) (s : State) : Outcome State Fault Refusal :=
  let y := s.seqAt c q
  match y.stall with
  | some (addr, elapsed) =>
    if y.status == .ready && decide (s.stallBound (s.cellAt c).ctx ≤ elapsed) then
      .next (s.onSeq c q fun u => u.takeTrap (trapOf cTIMEOUT 0x01 addr))
    else .next s
  | none => .next s

/-! ### Packets in transit and links (R239, R240) -/

/-- A packet for another device crosses this one; after 5 hops it is dropped. -/
def execPacketForward (p : Packet) (s : State) : Outcome State Fault Refusal :=
  if 5 ≤ p.hops then
    .next (s.sandglass 0x000A 0x400 (clsCode p.cls + p.src * 2 ^ 2 + p.dst * 2 ^ 14) (word p.agent))
  else
    match s.nextHop p with
    | some l => .next (s.emit l p)
    | none => .next { s with fab := { s.fab with unacked := s.fab.unacked ++ [(36, p)] } }

/-- A link is up, by its number. -/
def State.linkIsUp (s : State) (l : Nat) : Bool := if h : l < 36 then s.fab.linkUp[l] else false

/-- A packet that was sent over a link now down, without an acknowledgement. -/
def State.stranded (s : State) (seqNo : Nat) : Option (Nat × Packet) :=
  s.fab.unacked.find? fun u => u.2.seqNo == seqNo && !s.linkIsUp u.1

/-- Such a packet leaves again over another next hop. -/
def execPacketResend (seqNo : Nat) (s : State) : Outcome State Fault Refusal :=
  match s.stranded seqNo with
  | none => .next s
  | some u =>
    match s.nextHop u.2 with
    | none => .next s
    | some l => .next (({ s with fab := { s.fab with unacked := s.fab.unacked.erase u } } : State).emit l u.2)

def execLinkStateChange (link : Fin 36) (up : Bool) (s : State) : Outcome State Fault Refusal :=
  if s.fab.linkUp[link] == up then .next s
  else
    .next (({ s with fab := { s.fab with linkUp := s.fab.linkUp.set link up } } : State).sandglass 0x000F 0x400
      (link.val + (if up then 2 ^ 6 else 0)) 0)

/-! ### Absence (R209, R237) -/

/-- AH of every pod barrier of the context on this device (R209). -/
def State.setHolds (s : State) (ctx : Fin 64) (on : Bool) : State :=
  let keys := s.mem.objs.filter fun k => decide (ctx.val * 2 ^ 18 ≤ k) && decide (k < ctx.val * 2 ^ 18 + 2 ^ 16)
  keys.foldl (fun (u : State) k =>
    let a := flagBase + 4 * (k - ctx.val * 2 ^ 18)
    let w1 := u.flagAt ctx (a + 4)
    if (u.barObj ctx a).scope = 3 then u.showFlag ctx (a + 4) ((w1 &&& 0xFFFFFFDF#32) ||| (if on then 0x20#32 else 0)) else u) s

/-- The members that are away, as this device knows them. -/
def State.setAway (s : State) (ctx : Fin 64) (l : List Nat) : State :=
  (s.setCtx ctx { s.ctxAt ctx with away := l, absent := !l.isEmpty }).setHolds ctx (!l.isEmpty)

/-- The root of the seal tree, which is also the home of the pod barriers, tells every other member. -/
def State.spreadAbsence (s : State) (ctx : Fin 64) (rank : Nat) (away : Bool) : State :=
  let x := s.ctxAt ctx
  if x.home = x.rank then x.others.foldl (fun (u : State) r => u.send! x .request r 0 (.absence rank away)) s else s

def State.takeToken (s : State) (ctx : Fin 64) (rank : Nat) (away : Bool) : State :=
  let l := (s.ctxAt ctx).away.filter (· != rank)
  (s.setAway ctx (if away then rank :: l else l)).spreadAbsence ctx rank away

def execProxyAbsenceToken (p : Packet) (s : State) : Outcome State Fault Refusal :=
  match p.body, s.ctxOfJob p.job with
  | .absence rank true, some ctx => .next (s.once p fun u => u.takeToken ctx rank true)
  | _, _ => .next s

def execAbsenceTokenWithdrawal (p : Packet) (s : State) : Outcome State Fault Refusal :=
  match p.body, s.ctxOfJob p.job with
  | .absence rank false, some ctx => .next (s.once p fun u => u.takeToken ctx rank false)
  | _, _ => .next s

/-! ### Walks and stores (R100, R182) -/

/-- The walks that hold a walker: the first 64 that have not ended. -/
def State.walking (s : State) : List Walk := (s.mem.walks.filter fun k => k.ended.isNone).take 64

def execPageWalkComplete (walk : Nat) (s : State) : Outcome State Fault Refusal :=
  match s.walking.find? (fun k => k.id == walk) with
  | some k => .next (s.finishWalk k)
  | none => .next s

/-- One store is performed, after those that R184 orders before it. -/
def execAccessPerformed (id : Nat) (s : State) : Outcome State Fault Refusal :=
  match s.mem.pend.find? (fun p => p.id == id) with
  | some p => .next (s.performStore p)
  | none => .next s

end Sys2Proof.Machine
end

