-- ==== Sys2Proof/Machine/EngineEnd.lean ====
section
/-! DEFINITION. How an engine command ends (R29, R43, R156, R264, R359): its completion, and the fault that stops it, which becomes
pending for its sequencer or aborts its engine task. -/

namespace Sys2Proof.Machine

open Host (Outcome)

/-! ### Completion -/

/-- An engine task whose operation is complete is ENDING (R40). -/
def State.noteTaskDone (s : State) (stamp : Nat) : State :=
  match s.taskOf stamp with
  | some t => s.setTask { t with state := .ending }
  | none => s

/-- What a completed command leaves beside its data: the flags of a CHAIN (R129), the ring rows of an MMA (R135). -/
def State.finishOp (s : State) (m : Cmd) : State :=
  match m.op with
  | .chain _ _ _ _ _ flg => s.reportFlags m.cellOf flg
  | .mma .. => s.sweepRing m.cellOf
  | _ => s

/-- The command completes: its gives are made, or its task goes on to retire (R29, R43). -/
def State.completeCmd (s : State) (m : Cmd) : State :=
  let s1 := ((s.dropCmd m.id).dropReads (4096 + m.id)).finishOp m
  match m.owner with
  | .seq .. => s1.cmdGives m
  | .task stamp => s1.noteTaskDone stamp

/-! ### Faults -/

/-- A pending fault in its place: the command that issued first stands first (R264). -/
def insertFault (p : PendFault) : List PendFault → List PendFault
  | [] => [p]
  | x :: xs => if p.cmd < x.cmd then p :: x :: xs else x :: insertFault p xs

/-- What a sequencer waits for at an instruction of R264's list, or at a long form. -/
def Wait.synchronises : Wait → Bool
  | .tokens _ | .popQueue _ | .pushQueue .. | .fmtEmpty | .engine _ | .flag .. | .barrier .. | .step .. => true
  | .fmtFull | .pause _ | .post _ | .home .. => false

/-- A sequencer that waits at such an instruction stops waiting: it issues the instruction again and takes the trap there (R264,
R265). -/
def State.stopWait (s : State) (c : Fin 256) (q : Role) : State :=
  match (s.seqAt c q).status with
  | .waiting w =>
    if w.synchronises then
      let s1 := s.endWait c q
      s1.setSeq c q { s1.seqAt c q with status := .ready }
    else s
  | _ => s

/-- A fault of an ended sequencer is taken at its END, and its task runs again (R359). -/
def State.faultAtEnd (s : State) (c : Fin 256) (q : Role) (p : PendFault) (stamp : Nat) : State :=
  let s1 :=
    match s.taskOf stamp with
    | some t => if t.state == TaskState.ending then s.setTask { t with state := .running } else s
    | none => s
  s1.reportDeferred c q p

/-- What the engine found: cause, detail, level, EVAL and progress. -/
def pendFault (m : Cmd) (f : AccFault) (prog : Nat) : PendFault :=
  ⟨m.id, f.code, f.detail, f.level, f.eval, prog, engCode m.eng, m.stream⟩

/-- The fault becomes pending for the sequencer that issued the command, and gives up a pre-emption that has reached step 3 (R268). -/
def State.pendSeqFault (s0 : State) (c : Fin 256) (q : Role) (m : Cmd) (p : PendFault) : State :=
  let s := s0.abandonFor c m.stamp
  let y := s.seqAt c q
  let s1 := s.setSeq c q { y with pending := insertFault p y.pending }
  if y.status == .ended then s1.faultAtEnd c q p m.stamp else s1.stopWait c q

/-- A fault stops a command at `prog`: it is held for its sequencer's report (R156), or ends its engine task ABORTED with detail
0x06 (R264). A command whose task is over already is gone (R44). -/
def State.stopCmd (s : State) (m : Cmd) (f : AccFault) (prog : Nat) : State :=
  let s1 := (s.logUe? f.ue).dropReads (4096 + m.id)
  match m.owner with
  | .task stamp =>
    if (s1.taskOf stamp).isSome then (s1.dropCmd m.id).abortTask stamp 0x06 0 (f.code.toNat + f.detail.toNat * 2 ^ 8)
    else s1.dropCmd m.id
  | .seq c q =>
    if (s1.taskOf m.stamp).isSome then
      (s1.setCmd { m with state := .faulted, prog := prog, stalled := 0 }).pendSeqFault c q m (pendFault m f prog)
    else s1.discardCmd m

/-- EPROG of a fault: NMV reports 0 (R402). -/
def Cmd.faultProg (m : Cmd) : Nat :=
  match m.op with
  | .nmv .. => 0
  | _ => m.prog

end Sys2Proof.Machine
end

