-- ==== Sys2Proof/Machine/CollRun.lean ====
section
/-! DEFINITION. Collective runs (R241 to R257): the descriptor, the program and the team, who accesses memory, how a run sends,
ends and fails. -/

namespace Sys2Proof.Machine

open Host (Outcome)

/-! ### The descriptor (R242) -/

def collProg (d : AgImage) : Nat := imgField d 0 0 64
def collTeam (d : AgImage) : Nat := imgField d 8 0 64
def collBase (d : AgImage) (b : Nat) : Nat := imgField d (0x10 + 8 * b) 0 64
def collCstr (d : AgImage) : Nat := imgField d 0x28 48 16
def collStride (d : AgImage) (b : Nat) : Int := sextNat 16 (imgField d 0x28 (16 * b) 16)
def collIdx (d : AgImage) : Nat := imgField d 0x30 48 13
def collSize (d : AgImage) : Nat := imgField d 0x30 32 13
def collDone (d : AgImage) : Nat := imgField d 0x30 16 16
def collTmo (d : AgImage) : Nat := imgField d 0x38 32 32
def collTag (d : AgImage) : Nat := imgField d 0x38 16 16
def collRdy (d : AgImage) : Nat := imgField d 0x38 0 16

/-! ### Steps (R244) -/

def stepKind (w : Word) : Nat := field w 60 4
def stepOp (w : Word) : Nat := field w 57 3
def stepBsel (w : Word) : Nat := field w 55 2
def stepLen (w : Word) : Nat := 16 * field w 0 17
def stepFlag (w : Word) : Nat := deviceFlagAddr (field w 32 16)
def loopIsJ (w : Word) : Bool := bitAt w 59
def loopLen (w : Word) : Nat := field w 52 6

/-- A condition code of R201. -/
def condOf (n : Nat) : Cond :=
  match n with
  | 0 => .eq | 1 => .ne | 2 => .lt | 3 => .ge | 4 => .ltn | _ => .gen

/-- The fields of one step, which stands at `k` of a program whose END stands at `stop`. -/
def stepFits (w : Word) (k stop : Nat) : Bool :=
  match stepKind w with
  | 1 => stepOp w == 0 && stepBsel w != 3 && stepLen w != 0
  | 2 | 3 => stepOp w != 5 && stepOp w != 6 && stepBsel w != 3 && stepLen w != 0
  | 4 =>
    stepOp w != 5 && stepOp w != 6 && stepBsel w != 3 && stepLen w != 0 && field w 53 2 == 0 && field w 51 2 != 3 &&
    field w 35 16 == 0
  | 5 => decide (stepOp w ≤ 5) && field w 48 8 == 0
  | 6 => decide (stepOp w ≤ 1) && field w 48 8 == 0
  | 7 => loopLen w != 0 && field w 13 39 == 0 && decide (k + loopLen w < stop)
  | _ => false

/-- Bodies nest only i outside j: `outer` holds the last step and the counter of each body that is open. -/
def loopsNest : List Word → Nat → List (Nat × Bool) → Bool
  | [], _, _ => true
  | w :: ws, k, outer =>
    let live := outer.filter fun o => decide (k ≤ o.1)
    if stepKind w = 7 then
      let last := k + loopLen w
      (match live with
        | [] => true
        | o :: _ => !o.2 && loopIsJ w && decide (last ≤ o.1)) &&
      loopsNest ws (k + 1) ((last, loopIsJ w) :: live)
    else loopsNest ws (k + 1) live

/-- A program that ends at its first END (R244). -/
def progValid (prog : List Word) : Bool :=
  let stop := prog.length - 1
  (prog.zipIdx.all fun x => if x.2 = stop then stepKind x.1 == 8 else stepFits x.1 x.2 stop) &&
  loopsNest (prog.take stop) 0 []

/-! ### Access (R243, R245) -/

/-- Agent of a run's accesses: the boxes of its task, or no footprint for an armed entry. -/
def State.runAgent (s : State) (r : Run) : Agent :=
  let plain : Agent := ⟨r.ctx, none, none, taskAgentId r.die.val .coll, 0, r.step, none, 2 ^ 40 + r.id⟩
  match r.src with
  | .entry _ => plain
  | .cmd id => match s.cmdOf id with | some m => { s.cmdAgent m with reader := 2 ^ 40 + r.id } | none => plain

/-- The rule of R245 on the pieces of a source: each lies in the vault window or maps through a leaf with APER 0. -/
def State.sourceLocal (s : State) (w : Agent) : List (Nat × Nat) → XR Unit
  | [] => .ok s ()
  | (va, _) :: ps =>
    if (s.ctxAt w.ctx).inWindow va then s.sourceLocal w ps
    else
      (s.leafOf w va).bind fun s1 le =>
        if leafAper le.2 = 0 then s1.sourceLocal w ps else .fault (accFault cACCESS 0x0D va)

/-- Reading `n` bytes of a source: the aperture and the footprint, then the rule of R245, then the rest of R96. -/
def State.collRead (s : State) (r : Run) (va n : Nat) : XR (List Byte) :=
  let w := s.runAgent r
  match ((apertureByte va n).map fun a => accFault cACCESS 0x0B a).or (s.footFault w .read none va n) with
  | some f => .fault f
  | none =>
    (s.sourceLocal w (pieces (n / 65536 + 2) va n)).bind fun s1 _ =>
      (s1.planAccess w .read none va n).bind fun s2 gs => s2.readSegs w gs

/-- The first byte of a destination that lies outside the vault window or in an inbound window in force (R245). -/
def Ctx.badDest (x : Ctx) (va n : Nat) : Option Nat :=
  (x.outsideByte va n).or
    (((x.winsOf x.rank x.step).find? fun d => decide (d.base < va + n) && decide (va < d.base + d.size)).map fun d => max va d.base)

/-- The checks of a destination of `n` bytes. -/
def State.collDest (s : State) (r : Run) (va n : Nat) : XR Unit :=
  match (s.ctxAt r.ctx).badDest va n with
  | some a => .fault (accFault cACCESS 0x0D a)
  | none => (s.planAccess (s.runAgent r) .write none va n).bind fun s1 _ => .ok s1 ()

/-- The pieces of a destination that its step has checked: the port does not stall (R255). -/
def State.portSegs (s : State) (ctx : Fin 64) (va n : Nat) : XR (List Seg) :=
  s.translateAll (s.hereAgent ctx (2 ^ 44 + 64)) .write (pieces (n / 65536 + 2) va n)

/-! ### Operators (R249) -/

def bf16Sum (x d : Nat) : Nat := (toFloat bf16 false (f32v (plainAdd (roundF32 (bf16.decode x)) (roundF32 (bf16.decode d))))).1

/-- Bytes of an element. -/
def collElem (op : Nat) : Nat :=
  match op with
  | 0 | 2 | 3 => 4 | 1 => 2 | 4 => 16 | _ => 1

/-- One element: incoming data first, the destination second. -/
def collCombine (op inc d : Nat) : Nat :=
  match op with
  | 0 => plainAdd inc d
  | 1 => bf16Sum inc d
  | 2 => max32 false inc d
  | 3 => min32 false inc d
  | 4 => (momMerge (BitVec.ofNat 128 inc) (BitVec.ofNat 128 d)).toNat
  | _ => inc

/-- Combining bytes element by element. -/
def combineBytes (op : Nat) (inc old : List Byte) : List Byte :=
  if op = 7 then inc
  else
    let k := collElem op
    (List.range (inc.length / k)).flatMap fun i => bytesOf k (collCombine op (natAt inc (k * i) k) (natAt old (k * i) k))

/-- An indivisible update of `bs.length` bytes at `va` (R249). -/
def State.portWrite (s : State) (ctx : Fin 64) (op va : Nat) (bs : List Byte) : XR Unit :=
  (s.portSegs ctx va bs.length).bind fun s1 gs =>
    match (if op = 7 then s1.badWrite gs else gs.findSome? s1.badRead) with
    | some f => .fault f
    | none =>
      let old := if op = 7 then [] else gs.flatMap s1.segBytes
      let s2 := if op = 7 then s1 else s1.correct (segKeys gs)
      .ok (s2.writeBytes (localBytes gs (combineBytes op bs old))) ()

/-! ### Runs -/

def State.runOf (s : State) (id : Nat) : Option Run := s.col.runs.find? (·.id == id)

def State.setRun (s : State) (r : Run) : State :=
  { s with col := { s.col with runs := s.col.runs.map fun x => if x.id == r.id then r else x } }

def State.dropRun (s : State) (id : Nat) : State :=
  ({ s with col := { s.col with runs := s.col.runs.filter fun x => x.id != id } }).dropReads (2 ^ 40 + id)

/-- The step at which a run stands, once its program has been read. -/
def Run.stepAt (r : Run) : Option Word := r.prog[r.pc]?

/-- The context that a collective packet is for: the one its job maps, or, for a packet that loops back in a context of no job,
that context itself. -/
def State.collCtx (s : State) (p : Packet) : Option (Fin 64) :=
  if 2 ^ 32 ≤ p.job then some (Fin.ofNat 64 (p.job - 2 ^ 32)) else s.ctxOfJob p.job

/-- Sending collective traffic: data in the request class, credits and acknowledgements in the response class (R255). The own
rank is reached without a link (R243). -/
def State.sendColl (s : State) (ctx : Fin 64) (cls : PktClass) (dst : Nat) (b : Body) : Option State :=
  let x := s.ctxAt ctx
  if dst = x.rank then
    let p : Packet := ⟨cls, x.rank, dst, 2 ^ 32 + ctx.val, 0, 0, s.clk.nextId, b⟩
    some { s.bump with agenda := s.agenda ++ [.event (arrivalOf p)] }
  else s.send x cls dst 0 b

/-! ### How a run ends (R246, R253, R254) -/

/-- Adding to the DONE flag of a run, if it names one. -/
def State.addDone (s : State) (r : Run) (v : BitVec 32) : State :=
  if collDone r.desc = 0 then s else s.addFlag r.ctx (deviceFlagAddr (collDone r.desc)) v

/-- The descriptor of an entry after a run that succeeded (R253). -/
def rearmed (d : AgImage) : AgImage :=
  (List.range 3).foldl (fun (t : AgImage) b =>
    BitVec.ofNat 512 (putBits t.toNat (8 * (0x10 + 8 * b)) 64 (word (collBase d b) + wordOfInt (collStride d b * 4096)).toNat)) d

/-- The entry after a run: the next one waits for its trigger, or the entry is free. -/
def State.reArm (s : State) (die : Fin 2) (e : Fin 16) : State :=
  match s.entryAtDie die e with
  | none => s
  | some x => s.setEntry die e (if x.disarm then none else some { x with desc := rearmed x.desc, run := x.run + 1 })

/-- A run that succeeds. -/
def State.endRun (s : State) (r : Run) : State :=
  let s1 := (s.dropRun r.id).addDone r 1
  match r.src with
  | .entry e => s1.reArm r.die e
  | .cmd id => match s1.cmdOf id with | some m => s1.completeCmd { m with prog := 1 } | none => s1

/-! ### Failures (R256) -/

/-- Cause, detail and EVAL of a reason; an access fault keeps its own. -/
def runFault (reason : Nat) : AccFault :=
  match reason with
  | 1 => ⟨cILLEGAL, 0x1E, 0, 0, none⟩
  | 2 => ⟨cILLEGAL, 0x1F, 0, 0, none⟩
  | 4 => ⟨cLINK, 0x01, 0, 0, none⟩
  | 5 => ⟨cLINK, 0x02, 0, 0, none⟩
  | _ => ⟨cTIMEOUT, 0x02, 0, 0, none⟩

/-- The abort for a run's TAG, to every member of its team, this device among them; a rank that is no live member has no run. -/
def State.sendAborts (s : State) (r : Run) : State :=
  let x := s.ctxAt r.ctx
  (distinct r.team).foldl (fun (u : State) k =>
    let b := Body.collAbort (collTag r.desc)
    if k = x.rank then (u.sendColl r.ctx .request k b).getD u
    else if x.joined && x.live.getLsbD k then u.send! x .request k 0 b
    else u) s

/-- Credits that peers granted for a TAG. -/
def State.dropCredits (s : State) (ctx : Fin 64) (tag : Nat) : State :=
  { s with col := { s.col with credits := s.col.credits.filter fun k => !(k.ctx == ctx && k.tag == tag) } }

def State.failRun (s : State) (r : Run) (reason : Nat) (f : AccFault) : State :=
  let s1 := (((s.dropRun r.id).dropCredits r.ctx (collTag r.desc)).sendAborts r).addDone r 0x00010001
  let s2 := s1.sandglass 0x000B (engineSource r.die.val .coll)
    (reason + r.pc % 64 * 2 ^ 3 + r.ctx.val * 2 ^ 9 + collTag r.desc * 2 ^ 15) f.eval
  match r.src with
  | .entry e => (s2.logUe? f.ue).setEntry r.die e none
  | .cmd id => match s2.cmdOf id with | some m => s2.stopCmd m f r.pc | none => s2

/-- The bound of a stall of a run's access (R229). -/
def State.runStalled (s : State) (r : Run) (va : Nat) : State :=
  if (s.ctxAt r.ctx).stmo.toNat * 1024 < r.stalled then s.failRun r 3 (accFault cTIMEOUT 0x01 va)
  else s.setRun { r with stalled := max 1 r.stalled }

/-- Going on with the value of a run's access; a fault of it fails the run with reason 0x03. -/
def XR.thenRun {α : Type} (x : XR α) (s0 : State) (r : Run) (f : State → α → Outcome State Fault Refusal) :
    Outcome State Fault Refusal :=
  match x with
  | .ok s a => f s a
  | .fault e => .next (s0.failRun r 3 e)
  | .stall va => .next (s0.runStalled r va)
  | .pend s => .next s
  | .stop pa => .fault (.noSuchHbm pa)

/-! ### The start of a run (R243, R244) -/

/-- Words of the program from word `k` on, as far as the first END, of at most `fuel` words. -/
def State.readProg (s : State) (r : Run) : Nat → Nat → XR (List Word)
  | 0, _ => .ok s []
  | fuel + 1, k =>
    (s.collRead r ((collProg r.desc + 8 * k) % 2 ^ 64) 8).bind fun s1 bs =>
      let w := word (natOf bs)
      if stepKind w = 8 then .ok s1 [w]
      else (s1.readProg r fuel (k + 1)).bind fun s2 ws => .ok s2 (w :: ws)

/-- A team whose own entry is RANK and whose entries are live members. -/
def Ctx.teamValid (x : Ctx) (d : AgImage) (team : List Nat) : Bool :=
  (team[collIdx d]? == some x.rank) &&
  team.all fun k => if x.joined then decide (k < 4096) && x.live.getLsbD k else k == x.rank

/-- The ranks of a team table. -/
def teamOf (d : AgImage) (bs : List Byte) : List Nat := (List.range (collSize d)).map fun i => natAt bs (2 * i) 2

/-- Reading the team table and the program of a run that has not read them. The table comes first, so that a run that fails over its
program aborts its team (R256, log entry 33). -/
def State.loadRun (s : State) (r : Run) : Outcome State Fault Refusal :=
  (s.collRead r (collTeam r.desc) (2 * collSize r.desc)).thenRun s r fun s1 bs =>
    let r1 := { r with team := teamOf r.desc bs }
    let s2 := s1.setRun r1
    (s2.readProg r1 64 0).thenRun s2 r1 fun s3 prog =>
      if progValid prog && (s3.ctxAt r.ctx).teamValid r.desc r1.team then
        .next ((s3.dropReads (2 ^ 40 + r.id)).setRun { r1 with prog := prog, stalled := 0 })
      else .next (s3.failRun r1 1 (runFault 1))

/-- The program of a run is read as the run starts; a run without one has not read it yet. -/
def State.loadNew (s : State) (id : Nat) : Outcome State Fault Refusal :=
  match s.runOf id with
  | some r => if r.prog.isEmpty then s.loadRun r else .next s
  | none => .next s

end Sys2Proof.Machine
end

