-- ==== Sys2Proof/Machine/EngineEvents.lean ====
section
/-! DEFINITION. What happens in the engines (R135, R145 to R147, R204, R156): a command reaches the head of its queue, a row or an
entry is done, a command completes or meets a fault. An event whose condition does not hold changes nothing. -/

namespace Sys2Proof.Machine

open Host (Outcome)

/-! ### The head of a queue (R145, R147, R204) -/

/-- Two commands of one engine that must start in order: one sequencer's in one stream, or two engine tasks (R77, R241). -/
def Cmd.sameLine (x m : Cmd) : Bool :=
  x.eng == m.eng && x.unit == m.unit &&
  match x.owner, m.owner with
  | .seq .., .seq .. => x.owner == m.owner && x.stream == m.stream
  | .task _, .task _ => true
  | _, _ => false

/-- Every command that the engine must start before it has started, and no earlier command of its task is held at a fault (R156). -/
def State.atHead (s : State) (m : Cmd) : Bool :=
  (s.cmds.takeWhile fun x => x.id != m.id).all fun x =>
    !(x.sameLine m && (x.state == .queued || x.state == .guarded)) &&
    !(x.eng == m.eng && x.unit == m.unit && x.stamp == m.stamp && x.state == .faulted)

/-- A command at the head starts, or decides on its guard. -/
def State.headCmd (s : State) (m : Cmd) : State :=
  match m.owner with
  | .task _ => s.startCmd m
  | .seq c _ =>
    if m.guard = 0 then s.startCmd m
    else
      let g := { m with state := .guarded }
      (s.setCmd g).resolveGuard g (s.flagAt m.ctx (cellFlagAddr c m.guard.toNat))

def RunSrc.isOf (id : Nat) : RunSrc → Bool
  | .cmd i => i == id
  | .entry _ => false

/-- The run of a collective command reads its program once it has started. -/
def State.loadCmdRun (s : State) (id : Nat) : Outcome State Fault Refusal :=
  match s.col.runs.find? (fun r => r.src.isOf id) with
  | some r => s.loadNew r.id
  | none => .next s

def execEngineQueueHead (cmd : Nat) (s : State) : Outcome State Fault Refusal :=
  match s.cmdOf cmd with
  | none => .next s
  | some m =>
    match m.state with
    | .queued => if s.atHead m then (s.headCmd m).loadCmdRun cmd else .next s
    | .started => s.loadCmdRun cmd
    | .guarded | .faulted => .next s

/-! ### Units and completions -/

/-- A command of the wanted kind that has started. -/
def State.running (s : State) (cmd : Nat) (want : CmdOp → Bool) : Option Cmd :=
  (s.cmdOf cmd).filter fun m => m.state == .started && want m.op

/-- Ring rows that an MMA has read become free (R135). -/
def State.sweepFor (s : State) (m : Cmd) : State := if m.eng == .matrix then s.sweepRing m.cellOf else s

/-- One unit of a command; the rows and entries it makes known wait for the completion event. -/
def unitEvent (cmd : Nat) (want : CmdOp → Bool) (s : State) : Outcome State Fault Refusal :=
  match s.running cmd want with
  | none => .next s
  | some m =>
    if m.total ≤ m.prog then .next s
    else
      match s.runOne m with
      | .done s1 m1 | .hold s1 m1 => .next ((s1.setCmd m1).sweepFor m1)
      | .fault .. => .next s
      | .stop pa => .fault (.noSuchHbm pa)

/-- Completion of a command whose units are events of their own. -/
def unitsDone (cmd : Nat) (want : CmdOp → Bool) (s : State) : Outcome State Fault Refusal :=
  match s.running cmd want with
  | none => .next s
  | some m => if m.total ≤ m.prog then .next (s.completeCmd m) else .next s

/-- The units that can be done now, and completion after the last. A fault is an event of its own. -/
def runToEnd (cmd : Nat) (want : CmdOp → Bool) (s : State) : Outcome State Fault Refusal :=
  match s.running cmd want with
  | none => .next s
  | some m =>
    match s.runAll m with
    | .done s1 m1 => .next (s1.completeCmd m1)
    | .hold s1 m1 => .next (s1.setCmd m1)
    | .fault .. => .next s
    | .stop pa => .fault (.noSuchHbm pa)

def CmdOp.isLda : CmdOp → Bool | .lda .. => true | _ => false
def CmdOp.isLdb : CmdOp → Bool | .ldb .. => true | _ => false
def CmdOp.isMma : CmdOp → Bool | .mma .. => true | _ => false
def CmdOp.isDrain : CmdOp → Bool | .drain .. => true | _ => false
def CmdOp.isLdv : CmdOp → Bool | .ldv .. => true | _ => false
def CmdOp.isStv : CmdOp → Bool | .stv .. => true | _ => false
def CmdOp.isVgath : CmdOp → Bool | .vgath .. => true | _ => false
def CmdOp.isVscat : CmdOp → Bool | .vscat .. => true | _ => false
def CmdOp.isChain : CmdOp → Bool | .chain .. => true | _ => false
def CmdOp.isCpy : CmdOp → Bool | .cpy .. => true | _ => false
def CmdOp.isXpose : CmdOp → Bool | .xpose .. => true | _ => false
def CmdOp.isNmv : CmdOp → Bool | .nmv .. => true | _ => false

def CmdOp.isPush (o : CmdOp) : Bool := o.isLdv || o.isVgath

/-- A row's 72 bytes arrive in its ring slot (R135). -/
def execARingRowDelivery (cmd : Nat) (s : State) : Outcome State Fault Refusal := unitEvent cmd CmdOp.isLda s

/-- One indivisible row update of an MMA (R146). -/
def execRowUpdate (cmd : Nat) (s : State) : Outcome State Fault Refusal := unitEvent cmd CmdOp.isMma s

/-- One reserved entry is filled (R36). -/
def execEntryFilled (cmd : Nat) (s : State) : Outcome State Fault Refusal := unitEvent cmd CmdOp.isPush s

/-- The last row of an LDA has been delivered (R143). -/
def execLdaComplete (cmd : Nat) (s : State) : Outcome State Fault Refusal := unitsDone cmd CmdOp.isLda s

/-- The last row update of an MMA has been written (R146). -/
def execMmaComplete (cmd : Nat) (s : State) : Outcome State Fault Refusal := unitsDone cmd CmdOp.isMma s

/-- The last entry of an LDV is filled (R385). -/
def execLdvComplete (cmd : Nat) (s : State) : Outcome State Fault Refusal := unitsDone cmd CmdOp.isLdv s

/-- The last entry of a VGATH is filled (R428). -/
def execVgathComplete (cmd : Nat) (s : State) : Outcome State Fault Refusal := unitsDone cmd CmdOp.isVgath s

/-- All 256 rows of an LDB are written (R144). -/
def execLdbComplete (cmd : Nat) (s : State) : Outcome State Fault Refusal := runToEnd cmd CmdOp.isLdb s

/-- The last byte of a DRAIN is performed (R357). -/
def execDrainComplete (cmd : Nat) (s : State) : Outcome State Fault Refusal := runToEnd cmd CmdOp.isDrain s

/-- The bytes of an STV are performed (R414). -/
def execStvComplete (cmd : Nat) (s : State) : Outcome State Fault Refusal := runToEnd cmd CmdOp.isStv s

/-- The stores of a VSCAT are performed (R428). -/
def execVscatComplete (cmd : Nat) (s : State) : Outcome State Fault Refusal := runToEnd cmd CmdOp.isVscat s

/-- The elements of a CHAIN are done (R175). -/
def execChainComplete (cmd : Nat) (s : State) : Outcome State Fault Refusal := runToEnd cmd CmdOp.isChain s

/-- The bytes of a CPY or of a COPY task are done (R348, R350). -/
def execCpyComplete (cmd : Nat) (s : State) : Outcome State Fault Refusal := runToEnd cmd CmdOp.isCpy s

/-- The elements of an XPOSE command or task are done (R435, R436). -/
def execXposeComplete (cmd : Nat) (s : State) : Outcome State Fault Refusal := runToEnd cmd CmdOp.isXpose s

/-- Every row of y is written (R161, R402). -/
def execNmvComplete (cmd : Nat) (s : State) : Outcome State Fault Refusal := runToEnd cmd CmdOp.isNmv s

/-! ### Faults (R156, R264) -/

/-- A command whose units are events of their own. -/
def CmdOp.byUnits (o : CmdOp) : Bool := o.isLda || o.isMma || o.isPush

/-- A fault found while the command executes stops it at the unit it cannot do; every earlier unit stands. -/
def execEngineCommandFault (cmd : Nat) (s : State) : Outcome State Fault Refusal :=
  match s.running cmd fun _ => true with
  | none => .next s
  | some m =>
    match (if m.op.byUnits then s.runUnits (if m.prog < m.total then 1 else 0) m else s.runAll m) with
    | .done .. | .hold .. => .next s
    | .fault s1 m1 f => .next (s1.stopCmd m1 f m1.faultProg)
    | .stop pa => .fault (.noSuchHbm pa)

end Sys2Proof.Machine
end

