-- ==== Sys2Proof/Machine/CollGrp.lean ====
section
/-! DEFINITION. The steps of collective runs and the traffic between them (R243 to R256). An event whose condition does not hold
changes nothing. -/

namespace Sys2Proof.Machine

open Host (Outcome)

/-! ### Going on in the program (R246) -/

/-- The counters after one pass of a body. -/
def Run.setCounter (r : Run) (isJ : Bool) (v : Nat) : Run := if isJ then { r with j := v } else { r with i := v }

/-- Going on after the step at `last`: a body whose last step this is runs again, or its loop ends and its counter is 0. -/
def Run.goPast (r : Run) (last : Nat) : List CollLoop → Run
  | [] => { r with pc := last + 1, loops := [] }
  | l :: ls =>
    if l.last = last then
      let n := (if l.isJ then r.j else r.i) + 1
      if n < l.count then { r.setCounter l.isJ n with pc := l.first, loops := l :: ls }
      else (r.setCounter l.isJ 0).goPast last ls
    else { r with pc := last + 1, loops := l :: ls }

/-- The step at PC is done. -/
def Run.next (r : Run) : Run := ({ r with wait := none, stalled := 0 } : Run).goPast r.pc r.loops

/-- A run that stands at a step of the wanted kind. -/
def State.runAt (s : State) (id kind : Nat) : Option (Run × Word) :=
  (s.runOf id).bind fun r => (r.stepAt.filter fun w => stepKind w == kind).map fun w => (r, w)

/-! ### Addresses and peers (R243, R245) -/

def sfield (w : Word) (lo n : Nat) : Int := sextNat n (field w lo n)

/-- A non-negative remainder by SIZE. -/
def Run.modSize (r : Run) (x : Int) : Nat := (x % (collSize r.desc : Int)).toNat

/-- Offset of a data step from its base. -/
def Run.offset (r : Run) (w : Word) : Nat :=
  let q := r.modSize ((if bitAt w 34 then (collIdx r.desc : Int) else 0) + sfield w 30 4 * r.i + sfield w 18 12)
  q * collCstr r.desc * 4096 + (if bitAt w 17 then r.j * stepLen w else 0)

def Run.addr (r : Run) (w : Word) (b : Nat) : Nat := (collBase r.desc b + r.offset w) % 2 ^ 64

/-- `o` of R243. -/
def Run.peerOff (r : Run) (w : Word) : Int := sfield w 51 4 * r.i + sfield w 47 4 * r.j + sfield w 35 12

def Run.peer (r : Run) (o : Int) : Nat := r.team.getD (r.modSize (collIdx r.desc + o)) 0

/-- V of WAIT and SIGNAL. -/
def Run.value (r : Run) (w : Word) : BitVec 32 := BitVec.ofNat 32 (field w 0 32) + (if bitAt w 56 then r.runNo else 0)

/-! ### Messages (R248) -/

def countOf (l : List (Nat × Nat)) (k : Nat) : Nat := ((l.find? fun x => x.1 == k).map (·.2)).getD 0

def bumpCount (l : List (Nat × Nat)) (k : Nat) : List (Nat × Nat) := (l.filter fun x => x.1 != k) ++ [(k, countOf l k + 1)]

/-- The data of a send whose credit is here. Where the lengths differ the receiver learns this length, and the run fails. -/
def State.flow (s : State) (r : Run) (x : CollSendRec) (len : Nat) : State :=
  let tag := collTag r.desc
  if len ≠ x.len then
    let s1 := (s.sendColl r.ctx .request x.dst (.collData tag x.n x.len 0 [])).getD s
    s1.failRun r 2 (runFault 2)
  else
    match s.sendColl r.ctx .request x.dst (.collData tag x.n x.len 0 (x.data.getD [])) with
    | none => s.failRun r 4 (runFault 4)
    | some s1 =>
      s1.setRun { r with sends := r.sends.map fun y => if y.dst == x.dst && y.n == x.n then { y with sent := true } else y }

def Credit.meets (k : Credit) (r : Run) (dst n : Nat) : Bool :=
  k.ctx == r.ctx && k.tag == collTag r.desc && k.src == dst && k.n == n

def State.useCredit (s : State) (k : Credit) : State := { s with col := { s.col with credits := s.col.credits.erase k } }

/-- A send starts: its source is read at once, and its data flow once the receiver's credit is here. With no live route to the
receiver the run fails (R256). -/
def State.startSend (s : State) (r : Run) (dst va len : Nat) : Outcome State Fault Refusal :=
  (s.collRead r va len).thenRun s r fun s1 bs =>
    if s1.cutOff (s1.ctxAt r.ctx) dst then .next (s1.failRun r 4 (runFault 4)) else
    let n := countOf r.sentTo dst
    let x : CollSendRec := ⟨dst, n, va, len, some bs, false, false⟩
    let r1 := ({ r with sends := r.sends ++ [x], sentTo := bumpCount r.sentTo dst, recv := none } : Run).next
    let s2 := (s1.dropReads (2 ^ 40 + r.id)).setRun r1
    match s2.col.credits.find? (fun k => k.meets r dst n) with
    | some k => .next ((s2.useCredit k).flow r1 x k.len)
    | none => .next s2

def execCollSend (run : Nat) (s : State) : Outcome State Fault Refusal :=
  match s.runAt run 1 with
  | some (r, w) => s.startSend r (r.peer (r.peerOff w)) (r.addr w (stepBsel w)) (stepLen w)
  | none => .next s

/-! ### Receives (R246, R248 to R250) -/

/-- Every word of the range has arrived. -/
def CollRecvRec.full (x : CollRecvRec) : Bool := decide (x.len / 4 ≤ x.got.length)

/-- The receive registers its destination with the port and grants the sender a credit. -/
def State.register (s : State) (r : Run) (w : Word) (src : Nat) (forward : Option Nat) : Outcome State Fault Refusal :=
  let va := r.addr w (stepBsel w)
  (s.collDest r va (stepLen w)).thenRun s r fun s1 _ =>
    let n := countOf r.recvFrom src
    let x : CollRecvRec := ⟨src, n, stepOp w, collBase r.desc (stepBsel w), va, stepLen w, [], [], forward⟩
    let s2 := s1.setRun { r with recv := some x, recvFrom := bumpCount r.recvFrom src, stalled := 0 }
    match s2.sendColl r.ctx .response src (.collCredit (collTag r.desc) n (stepLen w)) with
    | some s3 => .next s3
    | none => .next (s2.failRun r 4 (runFault 4))

def execCollRecv (run : Nat) (s : State) : Outcome State Fault Refusal :=
  match s.runAt run 2 with
  | none => .next s
  | some (r, w) =>
    match r.recv with
    | none => s.register r w (r.peer (r.peerOff w)) none
    | some x => if x.full then .next (s.setRun { r with recv := none }.next) else .next s

/-- RRS forwards the range once it is ready. -/
def execCollRrs (run : Nat) (s : State) : Outcome State Fault Refusal :=
  match s.runAt run 3 with
  | none => .next s
  | some (r, w) =>
    match r.recv with
    | none => s.register r w (r.peer (r.peerOff w)) (some (r.peer (-(r.peerOff w))))
    | some x => if x.full then s.startSend r (x.forward.getD 0) x.addr x.len else .next s

/-- Word numbers, from the start of the range, of `n` bytes at offset `off`. -/
def wordsOf (off n : Nat) : List Nat := (List.range (n / 4)).map (off / 4 + ·)

/-- Words of a range that lie in tile `t` (R250). -/
def CollRecvRec.inTile (x : CollRecvRec) (t k : Nat) : Bool := (x.addr + 4 * k - x.base) / 4096 == t

/-- Tiles whose last word has come: all tiles of the range that hold one of the new words. -/
def CollRecvRec.readyTiles (x : CollRecvRec) (new : List Nat) : List Nat :=
  (distinct (new.map fun k => (x.addr + 4 * k - x.base) / 4096)).filter fun t =>
    !x.tiles.contains t && (List.range (x.len / 4)).all fun k => !x.inTile t k || x.got.contains k

/-- The ready flag of each tile (R250). -/
def State.flagTiles (s : State) (r : Run) (ts : List Nat) : State :=
  if collRdy r.desc = 0 then s
  else ts.foldl (fun (u : State) t => u.addFlag r.ctx (deviceFlagAddr ((collRdy r.desc + t) % 65536)) 1) s

/-- Words arrive at the port: they are combined, their tiles counted, and the whole message is acknowledged. -/
def State.portData (s : State) (r : Run) (x : CollRecvRec) (off : Nat) (bs : List Byte) : Outcome State Fault Refusal :=
  (s.portWrite r.ctx x.op (x.addr + off) bs).thenRun s r fun s1 _ =>
    let x1 := { x with got := x.got ++ (wordsOf off bs.length).filter fun k => !x.got.contains k }
    let ts := x1.readyTiles (wordsOf off bs.length)
    let x2 := { x1 with tiles := x1.tiles ++ ts }
    let s2 := (s1.setRun { r with recv := some x2 }).flagTiles r ts
    if x2.full then
      .next ((s2.sendColl r.ctx .response x.src (.collAck (collTag r.desc) x.n)).getD (s2.failRun r 4 (runFault 4)))
    else .next s2

/-- The run whose receive a message matches. -/
def State.receiver (s : State) (ctx : Fin 64) (tag src n : Nat) : Option (Run × CollRecvRec) :=
  s.col.runs.findSome? fun r =>
    match r.recv with
    | some x => if r.ctx == ctx && collTag r.desc == tag && x.src == src && x.n == n then some (r, x) else none
    | none => none

/-- A duplicate of a packet is discarded by its sequence number (R240); what loops back comes once. -/
def State.seenBefore (s : State) (p : Packet) : Bool :=
  decide (p.job < 2 ^ 32) && s.fab.seen.contains (p.job * 4096 + p.src, p.seqNo)

def State.noteSeen (s : State) (p : Packet) : State :=
  if p.job < 2 ^ 32 then { s with fab := { s.fab with seen := (p.job * 4096 + p.src, p.seqNo) :: s.fab.seen } } else s

/-- A collective packet in the context it is for, once. -/
def collArrival (p : Packet) (s : State) (f : State → Fin 64 → Outcome State Fault Refusal) : Outcome State Fault Refusal :=
  match s.collCtx p with
  | none => .next s
  | some ctx => if s.seenBefore p then .next s else f (s.noteSeen p) ctx

def execCollDataArrival (p : Packet) (s : State) : Outcome State Fault Refusal :=
  collArrival p s fun s1 ctx =>
    match p.body with
    | .collData tag n total off bs =>
      match s1.receiver ctx tag p.src n with
      | none => .next s1
      | some (r, x) =>
        if total ≠ x.len then .next (s1.failRun r 2 (runFault 2))
        else if x.len < off + bs.length then .next s1
        else s1.portData r x off bs
    | _ => .next s1

/-- The send that waits for a credit. -/
def State.sender (s : State) (ctx : Fin 64) (tag dst n : Nat) : Option (Run × CollSendRec) :=
  s.col.runs.findSome? fun r =>
    if r.ctx == ctx && collTag r.desc == tag then (r.sends.find? fun x => x.dst == dst && x.n == n && !x.sent).map fun x => (r, x)
    else none

def execCollCreditArrival (p : Packet) (s : State) : Outcome State Fault Refusal :=
  collArrival p s fun s1 ctx =>
    match p.body with
    | .collCredit tag n len =>
      match s1.sender ctx tag p.src n with
      | some (r, x) => .next (s1.flow r x len)
      | none => .next { s1 with col := { s1.col with credits := s1.col.credits ++ [⟨ctx, tag, p.src, n, len⟩] } }
    | _ => .next s1

def CollSendRec.ack (x : CollSendRec) (dst n : Nat) : CollSendRec := if x.dst == dst && x.n == n && x.sent then { x with acked := true } else x

def Run.ack (r : Run) (ctx : Fin 64) (tag dst n : Nat) : Run :=
  if r.ctx == ctx && collTag r.desc == tag then { r with sends := r.sends.map fun x => x.ack dst n } else r

def execCollAckArrival (p : Packet) (s : State) : Outcome State Fault Refusal :=
  collArrival p s fun s1 ctx =>
    match p.body with
    | .collAck tag n => .next { s1 with col := { s1.col with runs := s1.col.runs.map fun r => r.ack ctx tag p.src n } }
    | _ => .next s1

/-- A run in progress of the TAG fails with reason 0x05; where there is none the abort is dropped (R256). -/
def execCollAbortArrival (p : Packet) (s : State) : Outcome State Fault Refusal :=
  collArrival p s fun s1 ctx =>
    match p.body with
    | .collAbort tag =>
      .next ((s1.col.runs.filter fun r => r.ctx == ctx && collTag r.desc == tag).foldl (fun (u : State) r => u.failRun r 5 (runFault 5)) s1)
    | _ => .next s1

/-! ### COPY, WAIT, SIGNAL, LOOP, END (R246) -/

def execCollCopy (run : Nat) (s : State) : Outcome State Fault Refusal :=
  match s.runAt run 4 with
  | none => .next s
  | some (r, w) =>
    let dst := r.addr w (field w 51 2)
    let n := stepLen w
    (s.collRead r (r.addr w (stepBsel w)) n).thenRun s r fun s1 bs =>
      (s1.collDest r dst n).thenRun s1 r fun s2 _ =>
        (s2.portWrite r.ctx (stepOp w) dst bs).thenRun s2 r fun s3 _ => .next ((s3.dropReads (2 ^ 40 + r.id)).setRun r.next)

/-- Every send so far has been acknowledged. -/
def Run.allAcked (r : Run) : Bool := r.sends.all (·.acked)

/-- WAIT registers on its flag and looks at it; any value seen from then on may satisfy it (R46). -/
def execCollWait (run : Nat) (s : State) : Outcome State Fault Refusal :=
  match s.runAt run 5 with
  | none => .next s
  | some (r, w) =>
    match r.wait with
    | some x => if x.sat then .next (s.setRun r.next) else .next s
    | none =>
      let cc := condOf (stepOp w)
      if cond32 cc (s.flagAt r.ctx (stepFlag w)) (r.value w) then .next (s.setRun r.next)
      else .next (s.setRun { r with wait := some ⟨stepFlag w, cc, r.value w, false⟩ })

def execCollSignal (run : Nat) (s : State) : Outcome State Fault Refusal :=
  match s.runAt run 6 with
  | none => .next s
  | some (r, w) =>
    if r.allAcked then
      let s1 := s.setRun r.next
      if stepOp w = 0 then .next (s1.writeFlag r.ctx (stepFlag w) (r.value w)) else .next (s1.addFlag r.ctx (stepFlag w) (r.value w))
    else .next s

def execCollLoop (run : Nat) (s : State) : Outcome State Fault Refusal :=
  match s.runAt run 7 with
  | none => .next s
  | some (r, w) =>
    let count : Int := (if bitAt w 58 then (collSize r.desc : Int) else 0) + sfield w 0 13
    let last := r.pc + loopLen w
    if count ≤ 0 then .next (s.setRun (r.goPast last r.loops))
    else
      .next (s.setRun { r.setCounter (loopIsJ w) 0 with
        pc := r.pc + 1
        loops := ⟨loopIsJ w, r.pc + 1, last, count.toNat⟩ :: r.loops })

def execCollEnd (run : Nat) (s : State) : Outcome State Fault Refusal :=
  match s.runAt run 8 with
  | none => .next s
  | some (r, _) => if r.allAcked then .next (s.endRun r) else .next s

/-! ### Armed entries and time (R253, R256) -/

/-- A trigger that has advanced past the runs so far starts the next one; the run reads its program at once. -/
def execArmedRunStart (die : Fin 2) (entry : Fin 16) (s : State) : Outcome State Fault Refusal :=
  match s.entryAtDie die entry with
  | none => .next s
  | some x =>
    if s.entryRuns die entry then
      (match s.col.runs.find? (fun r => r.die == die && r.src.isEntry entry) with
        | some r => s.loadNew r.id
        | none => .next s)
    else if x.disarm || x.fresh || (s.ctxAt x.ctx).absent || (s.ctxAt x.ctx).switchedOut then .next s
    else if 2 ^ 31 ≤ (s.flagAt x.ctx (deviceFlagAddr (collTrig x.desc)) - x.t0 - x.run - 1).toNat then .next s
    else
      let r : Run :=
        { id := s.clk.nextId, die := die, src := .entry entry, ctx := x.ctx, stamp := 0, desc := x.desc, runNo := x.run
          step := (s.ctxAt x.ctx).step, prog := [], team := [], pc := 0, i := 0, j := 0, loops := [], sends := [], recv := none
          sentTo := [], recvFrom := [], wait := none, elapsed := 0, stalled := 0 }
      ({ s.bump with col := { s.col with runs := s.col.runs ++ [r] } } : State).loadNew r.id

/-- The run has lasted TMO × 1,024 mc; a TMO of 0 sets no bound (R256). -/
def execCollRunTimeout (run : Nat) (s : State) : Outcome State Fault Refusal :=
  match s.runOf run with
  | none => .next s
  | some r =>
    if collTmo r.desc != 0 && decide (collTmo r.desc * 1024 ≤ r.elapsed) then .next (s.failRun r 6 (runFault 6)) else .next s

end Sys2Proof.Machine
end

