-- ==== Sys2Proof/Machine/Recovery.lean ====
section
/-! DEFINITION. The recovery ladder (R272, R273), power-up, function-level reset and the configuration record (R19, R291), parity and
scrubbing (R108, R276), the power cap's clock (R17), pre-emption (R268 to R270, R274), and shootdowns (R102). -/

namespace Sys2Proof.Machine

open Host (Outcome)

/-! ### The ladder (R272) -/

/-- Bound of a level, in fs. -/
def levelBound : Nat → Nat
  | 1 => 100000000000
  | 2 => 200000000000
  | 3 => 1000000000000
  | _ => 100000000000000

/-- A level begins to act on its scope. -/
def State.addJob (s : State) (level scope trigger detail : Nat) : State :=
  let j : LadderJob := ⟨s.clk.nextId, level, scope, trigger, detail, s.clk.fs + levelBound level⟩
  { s.bump with mgmt := { s.mgmt with ladder := s.mgmt.ladder ++ [j] } }

/-- The RECOVERY event of levels 2 to 5 (R294): W2 comes from its cairn controller, the others from the Sirocco core. -/
def State.logRecovery (s : State) (level scope trigger : Nat) : State :=
  s.sandglass 0x000D (if level = 2 then 0x100 + scope / 16 else 0x200)
    (level + (if level ≤ 3 then scope * 2 ^ 3 else 0) + trigger * 2 ^ 19) 0

/-- A command of a cell's own engines. -/
def Cmd.onCell (m : Cmd) (c : Fin 256) : Bool :=
  m.unit == c.val && (m.eng == .load || m.eng == .matrix || m.eng == .drain || m.eng == .chain)

/-- Clearing a cell's own engines and its queues: no give is made (R272). -/
def State.clearEngines (s : State) (c : Fin 256) : State :=
  let gone := s.cmds.filter (·.onCell c)
  let s1 := gone.foldl (fun (t : State) m => t.dropReads (4096 + m.id)) { s with cmds := s.cmds.filter fun m => !m.onCell c }
  let x := s1.cellAt c
  s1.setCell c { x with
    tokens := Vector.replicate 12 0
    reserved := Vector.replicate 12 0
    dq := Vector.replicate 4 []
    fmtq := []
    ring := []
    ldaRecs := [] }

/-- Resetting a cell at W2 or W3: its task is aborted and its engines, queues and accumulators are cleared; it is free once no
command of its task runs on an engine of the die (R272, R44). -/
def State.resetCell (s : State) (c : Fin 256) (detail level : Nat) : State :=
  match (s.cellAt c).task with
  | none => (s.clearEngines c).clearAcc c 0 2048
  | some stamp =>
    let s1 := ((s.abortTask stamp detail level 0).clearEngines c).clearAcc c 0 2048
    if s1.hasStarted stamp then s1 else s1.clearCell c

/-- W2 on a cell. -/
def State.startW2 (s : State) (c : Fin 256) (detail trigger : Nat) : State :=
  let stamp := (s.cellAt c).task.getD 0
  ((s.logRecovery 2 c.val trigger).addJob 2 c.val trigger stamp).resetCell c detail 2

/-- The cells of a cluster. -/
def cellsOf (n : Fin 16) : List (Fin 256) := (List.range 16).map fun i => Fin.ofNat 256 (n.val * 16 + i)

/-- What the caches and the controller of a cluster hold is gone. -/
def State.resetCluster (s : State) (n : Fin 16) : State :=
  { s with
    mem := { s.mem with
      micro := Vector.ofFn fun c => if clusterOf c = n then [] else s.mem.micro[c]
      cluster := s.mem.cluster.set n [] }
    mgmt := { s.mgmt with fw := { s.mgmt.fw with
      links := s.mgmt.fw.links.set n Link.reset
      cairnBeat := s.mgmt.fw.cairnBeat.set n s.clk.fs
      hungC := s.mgmt.fw.hungC &&& ~~~(BitVec.ofNat 16 (2 ^ n.val)) } } }

/-- Quiescing a cluster: no release to it, its tasks aborted, its cells, caches and controller reset. -/
def State.quiesce (s : State) (n : Fin 16) : State :=
  let s1 := { s with erg := { s.erg with quiet := s.erg.quiet ||| BitVec.ofNat 16 (2 ^ n.val) } }
  ((cellsOf n).foldl (fun (t : State) c => t.resetCell c 0x05 3) s1).resetCluster n

/-- W3 acts on the cluster already. -/
def State.inW3 (s : State) (n : Fin 16) : Bool := s.mgmt.ladder.any fun j => j.level == 3 && j.scope == n.val

/-- W3 on a cluster. -/
def State.startW3 (s : State) (n : Fin 16) (trigger : Nat) : State :=
  if s.inW3 n then s else ((s.logRecovery 3 n.val trigger).addJob 3 n.val trigger 0).quiesce n

/-- Firmware commits a control block that has changed: it writes the copy that is not current, and the commit word then names that copy
under the next generation number (R288). -/
def QCopies.commit (k : QCopies) (h : HQueue) : QCopies :=
  if (if k.isB then k.copyB else k.copyA) = h then k
  else if k.isB then { k with copyA := h, gen := k.gen + 1, isB := false }
  else { k with copyB := h, gen := k.gen + 1, isB := true }

/-- Every change of a queue is committed by the end of its mc, and before a restart or a hand-over: what those read is the queue as it
stands (log entry 27). -/
def HostIf.commit (h : HostIf) : HostIf := { h with copies := Vector.ofFn fun q => h.copies[q].commit h.queues[q] }

/-- W4: consumption stops until the restarted firmware's first heartbeat; a hand-over in progress falls back (R272, R290). -/
def State.startW4 (s : State) (trigger : Nat) : State :=
  let s1 := (s.logRecovery 4 0 trigger).addJob 4 0 trigger 0
  { s1 with host := s1.host.commit, mgmt := { s1.mgmt with fw := { s1.mgmt.fw with restarting := true, handover := none, replaced := 0, siroccoBeat := s1.clk.fs, hungS := false } } }

/-! ### The configuration record (R19, R291), and W5 (R273) -/

/-- Values of CAP that R15 allows. -/
def capValid (n : Nat) : Bool := n % 50 == 0 && decide (1200 ≤ n) && decide (n ≤ 2400)

/-- The window contains the flag aperture (R86, R199). -/
def windowHitsAperture (vbase vlimit : Nat) : Bool :=
  vlimit != 0 && decide (vbase < flagBase + 0x100000) && decide (flagBase < vbase + 2 ^ 30)

/-- The partition limits of R86 on one context beside the others. -/
def State.partitionFits (s : State) (c : Fin 64) (vbase vlimit vslot rename scratch : Nat) : Bool :=
  decide (vslot + vlimit ≤ 64) && decide (scratch + rename ≤ vlimit) && !windowHitsAperture vbase vlimit &&
  (vlimit == 0 || (List.finRange 64).all fun i =>
    let x := s.ctxAt i
    i == c || x.vlimit == 0 || decide (x.vslot + x.vlimit ≤ vslot) || decide (vslot + vlimit ≤ x.vslot))

/-- One context of a record: its partition, where R86 allows it, and its default WINTMO. The registers keep only the bits they have (R6).
DESIGN CHOICE (log entry 40): a partition that breaks R86's limits, of which the spec says nothing, is skipped, and the rest of the record
applies. -/
def State.applyCfgCtx (s : State) (k : CfgCtx) : State :=
  let x := { s.ctxAt k.ctx with wdef := k.wdef }
  let base := putField k.vbase 0 30 0
  if s.partitionFits k.ctx base.toNat k.vlimit k.vslot k.rename k.scratch then
    s.setCtx k.ctx { x with
      vbase := base, vlimit := k.vlimit, vslot := k.vslot % 64, spillpri := k.spillpri % 4, rename := k.rename, scratch := k.scratch }
  else s.setCtx k.ctx x

/-- Applying a record that verifies. DESIGN CHOICE (log entry 40): a default cap that R15 does not allow is ignored, and the cap stays as
it was, 2,400 W at a boot. -/
def State.applyRecord (s : State) (r : CfgRecord) : State :=
  let s1 := r.ctxs.foldl State.applyCfgCtx s
  let qs : Vector HQueue 64 := Vector.ofFn fun q => { s1.host.queues[q] with bounded := r.bounded.contains q }
  { s1 with
    host := { s1.host with queues := qs, cap := if capValid r.cap then r.cap else s1.host.cap }
    mgmt := { s1.mgmt with fw := { s1.mgmt.fw with cfgst := 1, svn := r.svn } } }

/-- The boot ROM judges the record that the flash holds (R291). -/
def State.bootRecord (s : State) (r : Option CfgRecord) : State :=
  let s1 := { s with mgmt := { s.mgmt with fw := { s.mgmt.fw with record := r } } }
  match r with
  | none => s1
  | some k =>
    if Config.verifies k.raw then s1.applyRecord k
    else { s1 with mgmt := { s1.mgmt with fw := { s1.mgmt.fw with cfgst := 2 } } }

/-- Host memory, which is none of the device's. -/
def hostBytes (m : Memory) : Memory := m.filter fun x => decide (2 ^ 56 ≤ x.1)

/-- What the flash holds: a record pushed as component 3 takes the place of the one before it (R290). -/
def Firmware.flash (f : Firmware) : Option CfgRecord := f.nextRecord.or f.record

/-- The firmware after a boot: the images in flash run. -/
def Firmware.booted (f : Firmware) (fs : Nat) : Firmware :=
  { Firmware.reset with
    siroccoVer := f.siroccoVer, cairnVer := f.cairnVer, siroccoImage := f.siroccoImage, cairnImage := f.cairnImage, cairnBeat := Vector.replicate 16 fs, siroccoBeat := fs }

/-- W5: everything of the device is as after power-up but the Sandglass, what counts since power-up, and what is outside (R273). -/
def State.startW5 (s : State) (trigger : Nat) : State :=
  let r := State.reset
  let s1 := s.logRecovery 5 0 trigger
  ({ r with
    agenda := s.agenda
    arbiter := s.arbiter
    clk := s1.clk
    mem := { r.mem with bytes := hostBytes s.mem.bytes }
    host := { r.host with window := s1.clk.fs / 1000000000000 }
    fab := { r.fab with linkUp := s.fab.linkUp, out := s.fab.out }
    mgmt := { r.mgmt with
      fw := s.mgmt.fw.booted s.clk.fs, mctp := s.mgmt.mctp, irq := s1.mgmt.irq, sand := s1.mgmt.sand
      sandCount := s1.mgmt.sandCount } } : State).bootRecord s.mgmt.fw.flash

/-- The host's function-level reset (R272). -/
def execFunctionLevelReset (s : State) : Outcome State Fault Refusal := .next (s.startW5 4)

/-- Power-up (R19): the flash holds the given record, or else what it held before. -/
def execPowerUp (record : Option CfgRecord) (s : State) : Outcome State Fault Refusal :=
  let r := State.reset
  let s1 := ({ r with
    agenda := s.agenda
    arbiter := s.arbiter
    clk := { r.clk with nextId := s.clk.nextId }
    mem := { r.mem with bytes := hostBytes s.mem.bytes }
    mgmt := { r.mgmt with fw := s.mgmt.fw.booted 0, sand := [], sandCount := 0 } } : State).bootRecord (record.or s.mgmt.fw.flash)
  .next (s1.sandglass 0x0001 0x200 s1.mgmt.fw.cfgst.toNat (s1.mgmt.fw.svn.zeroExtend 64))

/-! ### Triggers and overruns -/

def State.dropJob (s : State) (id : Nat) : State :=
  { s with mgmt := { s.mgmt with ladder := s.mgmt.ladder.filter fun j => j.id != id } }

/-- The level has done its work: the cell is free of its task, the cluster's cells are free, the firmware runs. -/
def State.jobDone (s : State) (j : LadderJob) : Bool :=
  match j.level with
  | 1 | 2 =>
    let c : Fin 256 := Fin.ofNat 256 j.scope
    (s.cellAt c).task != some j.detail
  | 3 => (cellsOf (Fin.ofNat 16 j.scope)).all fun c => (s.cellAt c).task.isNone
  | _ => !s.mgmt.fw.restarting

/-- Release to a cluster goes on once W3 has finished there. -/
def State.endJob (s : State) (j : LadderJob) : State :=
  let s1 := s.dropJob j.id
  if j.level = 3 then { s1 with erg := { s1.erg with quiet := s1.erg.quiet &&& ~~~(BitVec.ofNat 16 (2 ^ (j.scope % 16))) } } else s1

/-- Dropping every level that has finished. -/
def State.sweepJobs (s : State) : State := (s.mgmt.ladder.filter s.jobDone).foldl (fun (t : State) j => t.endJob j) s

/-- A level that has not finished within its bound hands its work to the next (R272). -/
def State.stepUp (s : State) (j : LadderJob) : State :=
  let s1 := s.dropJob j.id
  let c : Fin 256 := Fin.ofNat 256 j.scope
  match j.level with
  | 1 => s1.startW2 c 0x05 0
  | 2 => s1.startW3 (clusterOf c) 0
  | 3 => s1.startW4 0
  | _ => s1.startW5 0

def execLadderLevelOverrun (job : Nat) (s : State) : Outcome State Fault Refusal :=
  match s.mgmt.ladder.find? (fun j => j.id == job) with
  | none => .next s
  | some j =>
    if s.jobDone j then .next (s.endJob j) else if j.deadline < s.clk.fs then .next (s.stepUp j) else .next s

/-- The clusters whose quiesce a restart repeats: release is stopped there and no W3 runs (R102). -/
def State.stalledClusters (s : State) : List (Fin 16) :=
  (List.finRange 16).filter fun n => s.erg.quiet.getLsbD n.val && !s.inW3 n

/-- The first heartbeat of the restarted firmware ends W4, which repeats each quiesce that had overrun. -/
def State.endRestart (s : State) : State :=
  let s1 := { s with mgmt := { s.mgmt with
    ladder := s.mgmt.ladder.filter fun j => j.level != 4, fw := { s.mgmt.fw with restarting := false } } }
  s1.stalledClusters.foldl (fun (t : State) n => t.startW3 n 0) s1

/-- LSTAT bit 2 at the Sirocco end of a link (R287). -/
def State.noteLost (s : State) (n : Fin 16) : State :=
  { s with mgmt := { s.mgmt with fw := { s.mgmt.fw with links := s.mgmt.fw.links.set n { s.mgmt.fw.links[n] with lostS := true } } } }

/-- No heartbeat of a cairn controller for 1 ms (R272). -/
def execCairnHeartbeatMissing (n : Fin 16) (s : State) : Outcome State Fault Refusal :=
  if 1000000000000 ≤ s.clk.fs - s.mgmt.fw.cairnBeat[n] && !s.inW3 n then .next ((s.startW3 n 1).noteLost n) else .next s

/-- LSTAT bit 2 at the cairn end of every link. -/
def State.noteLostAll (s : State) : State :=
  { s with mgmt := { s.mgmt with fw := { s.mgmt.fw with links := vmap (fun (l : Link) => { l with lostC := true }) s.mgmt.fw.links } } }

/-- No heartbeat of the Sirocco core for 10 ms (R272). -/
def execSiroccoHeartbeatMissing (s : State) : Outcome State Fault Refusal :=
  if 10000000000000 ≤ s.clk.fs - s.mgmt.fw.siroccoBeat && !s.mgmt.fw.restarting && s.mgmt.fw.handover.isNone then
    .next (s.startW4 1).noteLostAll
  else .next s

/-! ### The task watchdog and a save that is lost (R272, R274) -/

/-- A save is given up: the task ends ABORTED and the cell is reset under W2. -/
def State.loseSave (s : State) (c : Fin 256) : State := s.startW2 c 0x04 3

/-- W1 on a task. -/
def State.startW1 (s : State) (t : Task) (c : Fin 256) : State := (s.addJob 1 c.val 0 t.stamp).abortTask t.stamp 0x01 1 0

/-- A guard holds a command of the task; where it stays unresolved the task watchdog ends even a task that is ENDING (R50). -/
def State.guardHolds (s : State) (stamp : Nat) : Bool := s.cmds.any fun m => m.stamp == stamp && m.state == .guarded

/-- The watchdog of a CELL task has expired: TWD × 1,024 mc without progress, and in any case an mc without progress. -/
def State.watchdogExpired (s : State) (t : Task) (c : Fin 256) : Bool :=
  let x := s.cellAt c
  (t.state == TaskState.running || (t.state == TaskState.ending && s.guardHolds t.stamp)) && x.task == some t.stamp && !x.progress && !(s.ctxAt t.ctx).absent &&
    decide (max 1 ((s.ctxAt t.ctx).twd.toNat * 1024) ≤ x.watchdog)

def execTaskWatchdogExpiry (stamp : Nat) (s : State) : Outcome State Fault Refusal :=
  match s.taskOf stamp with
  | none => .next s
  | some t =>
    match t.cell with
    | none => .next s
    | some c =>
      if s.watchdogExpired t c then
        match t.req.bind (·.saving) with
        | some _ => .next (s.loseSave c)
        | none => .next (s.startW1 t c)
      else .next s

/-- Step 4 of a save has lasted 200 µs. -/
def execSaveLost (stamp : Nat) (s : State) : Outcome State Fault Refusal :=
  match s.taskOf stamp with
  | none => .next s
  | some t =>
    match t.cell, t.req.bind (·.saving) with
    | some c, some since => if 200000000000 < s.clk.fs - since then .next (s.loseSave c) else .next s
    | _, _ => .next s

/-! ### Parity, scrubbing and the clock (R17, R108, R276) -/

def coreSource : FwCore → Nat
  | .sirocco => 0x200
  | .cairn n => 0x100 + n.val

/-- The PARITY event (R294). -/
def State.logParity (s : State) (source unit stamp : Nat) : State := s.sandglass 0x0007 source unit (word stamp)

/-- An error in an Erg entry ends its task: CANCELLED while it has not started, ABORTED from then on (R40, R276). -/
def State.loseEntry (s : State) (stamp : Nat) : State :=
  match s.taskOf stamp with
  | none => s
  | some t =>
    match t.state with
    | .posted | .ready => s.endAbnormal t false
    | .running | .ending | .suspended => s.abortTask stamp 0x07 0 0

/-- A corrected error of a firmware-core memory is counted for its core: the Sirocco core first, then the controllers (R276). -/
def State.countCorrected (s : State) (core : FwCore) : State :=
  let i : Fin 17 := match core with | .sirocco => 0 | .cairn n => n.succ
  { s with mgmt := { s.mgmt with fw := { s.mgmt.fw with corrected := s.mgmt.fw.corrected.set i (s.mgmt.fw.corrected[i] + 1) } } }

def execParityError (site : ParitySite) (s : State) : Outcome State Fault Refusal :=
  match site with
  | .cell c => .next ((s.logParity c.val 0 ((s.cellAt c).task.getD 0)).startW2 c 0x07 2)
  | .erg stamp => .next ((s.logParity 0x400 1 stamp).loseEntry stamp)
  | .engineQueue cmd =>
    match s.cmdOf cmd with
    | none => .next s
    | some m =>
      .next ((s.logParity (match m.owner with | .seq c _ => c.val | .task _ => 0x400) 2 m.stamp).abortTask m.stamp 0x07 0 0)
  | .fwSingle core => .next ((s.logParity (coreSource core) 3 0).countCorrected core)
  | .fwDouble .sirocco => .next ((s.logParity 0x200 4 0).startW4 2)
  | .fwDouble (.cairn n) => .next ((s.logParity (0x100 + n.val) 4 0).startW3 n 2)

/-- The scrubber reads one granule of a vault or of HBM. -/
def execPatrolScrub (granule : Nat) (s : State) : Outcome State Fault Refusal :=
  if 2 ^ 41 ≤ granule * 8 then .next s
  else if s.isBad (granule * 8) then
    match ueOf (granule * 8) with
    | some u => .next (s.logUe u true)
    | none => .next s
  else .next (s.correct [granule * 8])

/-- The highest clock that holds the average package power of a 1 ms window at or below the cap; 800 MHz where none does (R17). -/
def capClock (window cap : Nat) : Nat :=
  (((List.range 45).map fun i => 1900 - 25 * i).find? fun m => decide ((Config.power window m).toNat ≤ cap)).getD 800

/-- One step of 25 MHz towards a clock. -/
def stepClock (mclk goal : Nat) : Nat := if mclk < goal then min goal (mclk + 25) else max goal (mclk - 25)

/-- In each mc the clock stands at the one that the cap allows in the running 1 ms window, or moves one step towards it. -/
def execPowerCapClockStep (s : State) : Outcome State Fault Refusal :=
  let h := s.host
  let now := s.clk.fs / 1000000000000
  .next { s with host := { h with
    window := now
    lastClk := if now = h.window then h.lastClk else h.mclk
    mclk := stepClock h.mclk (capClock now h.cap) } }

/-! ### Pre-emption (R268 to R270) -/

/-- A waiting sequencer stops at its waiting instruction, which has not taken effect; a result that is already on its way to it
(of a post, a pod arrival, a PAUSE) comes first. -/
def Wait.stops (w : Wait) : Bool := !w.issued

/-- What is noted of a wait when its sequencer stops: a wait with a bound of its own goes on from the time it has lasted; what it has found
so far is looked for afresh (`State.lookAgain`). -/
def Wait.noted : Wait → Option Wait
  | .flag a cc r t d b e _ => some (.flag a cc r t d b e none)
  | .barrier a p t d e _ => some (.barrier a p t d e none)
  | .step n t d b e _ => some (.step n t d b e false)
  | .tokens _ | .popQueue _ | .pushQueue .. | .fmtEmpty | .fmtFull | .engine _ | .pause _ | .post _ | .home .. => none

/-- A sequencer that stands at a stopping point (R268): a pending fault is reported first (R275). -/
def Seq.atStop (y : Seq) : Bool :=
  y.pending.isEmpty && match y.status with
    | .ready => y.outside
    | .waiting w => w.stops
    | _ => false

/-- The sequencer stops there: its wait ends, and is noted with the time it has lasted in case the attempt is given up. -/
def State.stopSeq (s : State) (c : Fin 256) (q : Role) : State :=
  let y := s.seqAt c q
  if y.atStop then
    let s1 := (s.endWait c q).dropReads (c.val * 4 + (roleIx q).val)
    s1.setSeq c q { s1.seqAt c q with status := .stopped, stall := y.stall, paused := y.status.wait?.bind Wait.noted }
  else s

def State.stopSeqs (s : State) (c : Fin 256) : State := allRoles.foldl (fun (t : State) q => t.stopSeq c q) s

/-- The lowest free save slot of a context. -/
def Ctx.freeSlotIx (x : Ctx) : Option Nat := (List.range x.slots).find? fun k => !x.usedSlots.contains k

/-- A request for a running CELL task: none where no slot is free or nothing runs that could be saved. -/
def State.askPreempt (s : State) (stamp : Nat) (q : Option (Fin 64)) : Option State :=
  (s.taskOf stamp).bind fun t =>
    t.cell.bind fun c =>
      if t.state == TaskState.running && t.kind == TaskKind.cell && t.req.isNone then
        (s.ctxAt t.ctx).freeSlotIx.map fun k =>
          let x := s.ctxAt t.ctx
          let s1 := (s.setCtx t.ctx { x with usedSlots := k :: x.usedSlots }).setTask { t with req := some ⟨k, s.clk.fs, none, q⟩ }
          (s1.setCell c { s1.cellAt c with stopReq := true }).stopSeqs c
      else none

/-- Firmware's own request. -/
def execPreemptionRequest (stamp : Nat) (s : State) : Outcome State Fault Refusal := .next ((s.askPreempt stamp none).getD s)

/-- Steps 2 and 3 are over. -/
def State.maySave (s : State) (t : Task) (c : Fin 256) : Bool :=
  let x := s.cellAt c
  t.state == TaskState.running && x.allStopped && (x.seqs.toList.all fun (y : Seq) => y.pending.isEmpty) &&
    !(s.cmds.any fun m => m.stamp == t.stamp) && !(s.mem.pend.any fun p => p.cell == c)

/-- Barrier objects of a cell's page, by group of four flags. -/
def State.pageGroups (s : State) (ctx : Fin 64) (c : Fin 256) : List Nat :=
  let k0 := flagKey ctx (cellFlagAddr c 0)
  (s.mem.objs.filter fun k => decide (k0 ≤ k) && decide (k < k0 + 256)).map fun k => (k - k0) / 4

/-- The end of step 4, and step 5. -/
def State.suspend (s : State) (t : Task) (c : Fin 256) (r : PreemptReq) : State :=
  let s1 := (s.writeSlot c t.stamp r.slot).setTask { t with
    state := .suspended, slot := some r.slot, req := none, pageObjs := s.pageGroups t.ctx c, watchdog := (s.cellAt c).watchdog }
  let s2 := s1.clearCell c
  match r.queue with
  | some q => s2.hostComplete q false stOK
  | none => s2

/-- Step 4 begins by making the slot's image invalid: VALID is written last (R269). -/
def State.beginSave (s : State) (t : Task) (r : PreemptReq) : State :=
  let y := s.ctxAt t.ctx
  let zero : List (Nat × Byte × Nat) := (List.range 8).map fun i => (y.slotAddr r.slot + 8 + i, 0, s.keyMat y.tkey)
  (s.writeBytes zero).setTask { t with req := some { r with saving := some s.clk.fs } }

def execPreemptionSave (stamp : Nat) (s0 : State) : Outcome State Fault Refusal :=
  match s0.taskOf stamp with
  | none => .next s0
  | some t =>
    match t.cell, t.req with
    | some c, some r =>
      let s := s0.stopSeqs c
      if s.maySave t c then
        let y := s.ctxAt t.ctx
        if 2 ^ 39 < y.slotAddr r.slot + y.slotSize then .fault (.noSuchHbm (y.slotAddr r.slot))
        else
          match r.saving with
          | none => .next (s.beginSave t r)
          | some _ => .next (s.suspend t c r)
      else .next s
    | _, _ => .next s0

/-- 50 µs have passed, or a fault has become pending in step 3: the request is given up. -/
def execPreemptionAbandon (stamp : Nat) (s : State) : Outcome State Fault Refusal :=
  match s.taskOf stamp with
  | none => .next s
  | some t =>
    match t.cell, t.req with
    | some c, some r =>
      let x := s.cellAt c
      let fault := x.allStopped && x.seqs.toList.any fun (y : Seq) => !y.pending.isEmpty
      if r.saving.isNone && (fault || decide (50000000000 ≤ s.clk.fs - r.since)) then .next (s.abandon t) else .next s
    | _, _ => .next s

/-! ### Shootdowns (R102) -/

/-- An entry of the range: it shares an address with it. -/
def TlbEntry.inRange (e : TlbEntry) (ctx : Fin 64) (va len : Nat) : Bool :=
  e.ctx == ctx && decide (e.va < va + len) && decide (va < e.va + e.size)

/-- A walk of the context starts again: it has read nothing yet, and no leaf of it has been handed out. A fault that it found stays. -/
def Walk.restarted (k : Walk) (ctx : Fin 64) : Walk :=
  if k.ctx != ctx then k
  else
    match k.ended with
    | some (.fault _) => k
    | _ => { k with regs := none, ended := none }

/-- Controller `n` invalidates its own cache and its cells' caches, and the walks of the context are discarded and repeated. -/
def State.invalidate (s : State) (n : Fin 16) (j : ShootJob) : State :=
  let keep := fun (l : List TlbEntry) => l.filter fun e => !e.inRange j.ctx j.va j.len
  ({ s with mem := { s.mem with
      micro := Vector.ofFn fun c => if clusterOf c = n then keep s.mem.micro[c] else s.mem.micro[c]
      cluster := s.mem.cluster.set n (keep s.mem.cluster[n]) } } : State).startWalks (s.mem.walks.map fun k => k.restarted j.ctx)

/-- The command is over. -/
def State.endShoot (s : State) (j : ShootJob) (v : Word) : State :=
  ({ s with host := { s.host with shoot := none } }).hostComplete j.queue false v

/-- A controller's report, or the end of W3 on a cluster that did not report. -/
def State.reportShoot (s : State) (n : Fin 16) (j : ShootJob) : State :=
  let j1 : ShootJob := { j with reported := n :: j.reported, w3 := j.w3.filter (· != n) }
  if j1.reported.length < 16 then { s with host := { s.host with shoot := some j1 } }
  else s.endShoot j1 (if j.timedOut then stTIMEOUT else stOK)

/-- A store that was translated: some byte of it lies outside the vaults. -/
def PStore.translated (p : PStore) : Bool := p.bytes.any fun b => decide (b.1 < 2 ^ 40) || decide (2 ^ 41 ≤ b.1)

/-- The 64 KiB granules of a store of at most 512 bytes share an address with the range. -/
def PStore.inRange (p : PStore) (j : ShootJob) : Bool :=
  decide (p.va / 65536 * 65536 < j.va + j.len) && decide (j.va < (p.va + 511) / 65536 * 65536 + 65536)

/-- Stores of the context in cluster `n` that may have been translated under an entry which the controller invalidates: those on a granule
of the range, and those on a page that a cached entry of the range maps. -/
def State.usersOf (s : State) (n : Fin 16) (j : ShootJob) : List Nat :=
  let hit := fun (p : PStore) => (s.mem.micro[p.cell] ++ s.mem.cluster[n]).any fun (e : TlbEntry) =>
    e.inRange j.ctx j.va j.len && (e.holds j.ctx p.va || e.holds j.ctx (p.va + 511))
  (s.mem.pend.filter fun p => p.ctx == j.ctx && clusterOf p.cell == n && p.translated && (p.inRange j || hit p)).map (·.id)

/-- The first act of controller `n`: it invalidates, and notes the accesses for which it waits. -/
def State.beginShoot (s : State) (n : Fin 16) (j : ShootJob) : State × ShootJob :=
  if j.invalidated.contains n then (s, j)
  else (s.invalidate n j, { j with invalidated := n :: j.invalidated, awaited := s.usersOf n j ++ j.awaited })

/-- Every access for which controller `n` waits has been performed. -/
def State.drained (s : State) (n : Fin 16) (j : ShootJob) : Bool :=
  !(s.mem.pend.any fun p => j.awaited.contains p.id && clusterOf p.cell == n)

def execShootdownReport (n : Fin 16) (s : State) : Outcome State Fault Refusal :=
  match s.host.shoot with
  | none => .next s
  | some j =>
    if j.reported.contains n then .next s
    else
      let b := s.beginShoot n j
      if (if j.w3.contains n then !s.erg.quiet.getLsbD n.val else b.1.drained n b.2) then .next (b.1.reportShoot n b.2)
      else .next { b.1 with host := { b.1.host with shoot := some b.2 } }

/-- 16 µs after issue: the controllers that have not reported are named, and W3 acts on their clusters. -/
def execShootdownTimeout (s : State) : Outcome State Fault Refusal :=
  match s.host.shoot with
  | none => .next s
  | some j =>
    if j.timedOut || decide (s.clk.fs - j.since < 16000000000) then .next s
    else
      let missing := (List.finRange 16).filter fun n => !j.reported.contains n
      let mask := missing.foldl (fun a n => a + 2 ^ n.val) 0
      let s1 := (s.sandglass 0x0008 0x200 (mask + j.ctx.val * 2 ^ 16) (word j.va))
      let s2 := { s1 with host := { s1.host with shoot := some { j with timedOut := true, w3 := missing } } }
      .next (missing.foldl (fun (t : State) n => t.startW3 n 0) s2)

end Sys2Proof.Machine
end

