-- ==== Sys2Proof/Machine/HostIf.lean ====
section
/-! DEFINITION. The host's rings and commands (R280 to R286): how an entry is read and judged, each command, and triggers. A command
event does nothing while its queue has no such entry to consume. -/

namespace Sys2Proof.Machine

open Host (Outcome)

/-! ### Queues -/

def State.queueAt (s : State) (q : Fin 64) : HQueue := s.host.queues[q]

def State.setQueue (s : State) (q : Fin 64) (h : HQueue) : State := { s with host := { s.host with queues := s.host.queues.set q h } }

def State.readHost (s : State) (a n : Nat) : List Byte := s.readPlain (hostKey a) n

/-- Firmware serves the queues: no restart and no hand-over is in progress (R272, R290). -/
def State.serving (s : State) : Bool := !s.mgmt.fw.restarting && s.mgmt.fw.handover.isNone

/-- `a` has reached `b` in sequence numbers modulo 2^32 (R281). -/
def seqReached (a b : BitVec 32) : Bool := decide ((a - b).toNat < 2 ^ 31)

/-- The oldest trigger, once every entry whose doorbell came before it is complete (R285). -/
def HQueue.dueTrig (h : HQueue) : Option Trig :=
  match h.trigs with
  | [] => none
  | t :: _ => if seqReached h.completed t.after then some t else none

/-- The queue can take a next command. -/
def State.queueOpen (s : State) (q : Fin 64) : Bool := (s.queueAt q).en && (s.queueAt q).busy == .none && s.serving

/-- The oldest due trigger starts: it passes through the post sequencer as a LAUNCH does (R285). -/
def State.startTrig (s : State) (q : Fin 64) (t : Trig) : State :=
  let h := s.queueAt q
  (s.setQueue q { h with trigs := h.trigs.drop 1, busy := .post true }).enqueuePost (.trigger q) h.ctx (.launch t.index t.plist) false 0

/-- Entry CONSUMED + 1 of the ring (R281). -/
def State.nextEntry (s : State) (q : Fin 64) : List Byte :=
  let h := s.queueAt q
  s.readHost (h.rbase.toNat + 64 * ((h.consumed + 1).toNat % 2 ^ h.logn)) 64

/-- The entry has been read: CONSUMED moves on. -/
def State.consumed (s : State) (q : Fin 64) : State :=
  let h := s.queueAt q
  s.setQueue q { h with consumed := h.consumed + 1, entry := h.consumed + 1 }

/-- A ring command completes. -/
def State.answer (s : State) (q : Fin 64) (v : Word) : State := s.hostComplete q false v

def adminOp (op : Nat) : Bool := (decide (4 ≤ op) && decide (op ≤ 9)) || (decide (0x0B ≤ op) && decide (op ≤ 0x0E))

/-- Words of operands that a command has (R282). -/
def operandWords (op : Nat) : Nat :=
  match op with
  | 0x01 | 0x02 | 0x04 | 0x06 | 0x0C => 2
  | 0x05 | 0x0D => 3
  | 0x0A => 0
  | _ => 1

/-- An entry that no command of R282 accepts: opcode, reserved bytes, or an administrative command on another queue. -/
def entryRefused (h : HQueue) (e : List Byte) : Bool :=
  let op := natAt e 4 4
  op < 1 || 0x0E < op || (adminOp op && !h.admin) || natAt e (8 + 8 * operandWords op) 64 != 0

/-- Reading one ring entry for the command `op`: a due trigger goes first; a sequence mismatch clears EN; an entry that R282 refuses
completes with BOUNDS; an entry of another command stays. -/
def consume (q : Fin 64) (op : Nat) (body : State → List Byte → State) (s : State) : Outcome State Fault Refusal :=
  if !s.queueOpen q then .next s
  else
    match (s.queueAt q).dueTrig with
    | some t => .next (s.startTrig q t)
    | none =>
      if (s.queueAt q).consumed = (s.queueAt q).doorbell then .next s
      else
        let e := s.nextEntry q
        let s1 := s.consumed q
        if natAt e 0 4 ≠ (s1.queueAt q).consumed.toNat then
          let s2 := s1.answer q stBOUNDS
          .next (s2.setQueue q { s2.queueAt q with en := false })
        else if entryRefused (s.queueAt q) e then .next (s1.answer q stBOUNDS)
        else if natAt e 4 4 ≠ op then .next s
        else .next (body s1 e)

/-- Operand word `i` of an entry. -/
def operand (e : List Byte) (i : Nat) : Nat := natAt e (8 + 8 * i) 8

/-- The queue waits for what the command has begun. -/
def State.busyWith (s : State) (q : Fin 64) (b : HostBusy) : State := s.setQueue q { s.queueAt q with busy := b }

/-- A command whose first operand is a context. -/
def onContext (s : State) (q : Fin 64) (e : List Byte) (f : Fin 64 → State) : State :=
  if 63 < operand e 0 then s.answer q stBOUNDS else f (Fin.ofNat 64 (operand e 0))

/-! ### NOP, LAUNCH, frames -/

def execHostNop (q : Fin 64) (s : State) : Outcome State Fault Refusal := consume q 0x0A (fun s1 _ => s1.answer q stOK) s

/-- An operation that the command hands to the post sequencer. -/
def State.hostPost (s : State) (q : Fin 64) (op : PostOp) : State :=
  (s.busyWith q (.post false)).enqueuePost (.host q) (s.queueAt q).ctx op false 0

/-- LAUNCH (R282, R284, R285). -/
def execLaunch (q : Fin 64) (s : State) : Outcome State Fault Refusal :=
  consume q 0x01 (fun s1 e =>
    if 1023 < operand e 0 || operand e 1 % 1024 != 0 then s1.answer q stBOUNDS
    else s1.hostPost q (.launch (operand e 0) (operand e 1))) s

/-- FRAMEDEF, whose descriptor is 64-byte aligned (R54, R57, R282). -/
def execFramedef (q : Fin 64) (s : State) : Outcome State Fault Refusal :=
  consume q 0x02 (fun s1 e =>
    if 4095 < operand e 0 || operand e 1 % 64 != 0 then s1.answer q stBOUNDS
    else s1.hostPost q (.frdef (operand e 0) (s1.readHost (operand e 1) 64))) s

/-- FRAMEFREE (R57, R282). -/
def execFramefree (q : Fin 64) (s : State) : Outcome State Fault Refusal :=
  consume q 0x03 (fun s1 e =>
    if 4095 < operand e 0 then s1.answer q stBOUNDS else s1.hostPost q (.frfree (operand e 0))) s

/-! ### CTXCFG (R18, R86) and KEYINST (R103) -/

def State.inFlight (s : State) (c : Fin 64) : Bool := s.erg.tasks.any fun t => t.ctx == c

/-- A step of the context is not applied yet. -/
def Ctx.unapplied (x : Ctx) : Bool := x.joined && x.applied != x.step

/-- The flags of a context read 0, and it has no barrier object (R200). -/
def State.clearFlags (s : State) (c : Fin 64) : State :=
  let mine := fun (k : Nat) => k / 2 ^ 18 == c.val
  let s1 := { s with mem := { s.mem with objs := s.mem.objs.filter fun k => !mine k } }
  (s.mem.flags.filter fun e => mine e.1).foldl (fun (t : State) e => t.showFlag c (flagBase + 4 * (e.1 % 2 ^ 18)) 0) s1

/-- A reserved bit of the words at +0x08 to +0x27 of an image. -/
def imageReserved (d : List Byte) : Bool :=
  bitsOf (natAt d 8 8) 0 30 != 0 || bitsOf (natAt d 0x10 8) 7 57 != 0 || bitsOf (natAt d 0x18 8) 6 58 != 0 ||
  bitsOf (natAt d 0x20 8) 18 46 != 0 || bitsOf (natAt d 0x20 8) 15 1 != 0 || bitsOf (natAt d 0x20 8) 7 1 != 0

def State.configure (s : State) (c : Fin 64) (d : List Byte) : State × Word :=
  let p := natAt d 0x20 8
  let vlimit := bitsOf (natAt d 0x10 8) 0 7
  let vslot := bitsOf (natAt d 0x18 8) 0 6
  if imageReserved d || !s.partitionFits c (natAt d 8 8) vlimit vslot (bitsOf p 8 7) (bitsOf p 0 7) then (s, stBOUNDS)
  else if s.inFlight c || (s.ctxAt c).unapplied then (s, stBUSY)
  else
    ((s.setCtx c { s.ctxAt c with
      vbase := word (natAt d 8 8), vlimit := vlimit, vslot := vslot, spillpri := bitsOf p 16 2, rename := bitsOf p 8 7
      scratch := bitsOf p 0 7 }).clearFlags c, stOK)

def execCtxcfg (q : Fin 64) (s : State) : Outcome State Fault Refusal :=
  consume q 0x04 (fun s1 e => onContext s1 q e fun c =>
    let r := s1.configure c (s1.readHost (operand e 1) 48)
    r.1.answer q r.2) s

/-- KEYINST: slot word, then 64 bytes of material. -/
def State.installKey (s : State) (w addr : Nat) : State × Word :=
  let slot := bitsOf w 0 10
  let owner := bitsOf w 16 7
  if bitsOf w 10 6 != 0 || bitsOf w 23 41 != 0 || slot = 0 || (decide (64 ≤ owner) && decide (owner ≤ 0x7E)) then (s, stBOUNDS)
  else
    let m := natOf (s.readHost addr 64) + 1
    ({ s with mem := { s.mem with keys := smSet (0, 0) slot (m, if owner = 0x7F then 64 else owner) s.mem.keys } }, stOK)

def execKeyinst (q : Fin 64) (s : State) : Outcome State Fault Refusal :=
  consume q 0x06 (fun s1 e =>
    let r := s1.installKey (operand e 0) (operand e 1)
    r.1.answer q r.2) s

/-! ### SHOOTDOWN (R102) -/

/-- The Sirocco core passes the command to the controllers; one command at a time. -/
def execShootdown (q : Fin 64) (s : State) : Outcome State Fault Refusal :=
  if s.host.shoot.isSome then .next s
  else
    consume q 0x05 (fun s1 e => onContext s1 q e fun c =>
      let j : ShootJob := ⟨q, c, operand e 1, operand e 2, s1.clk.fs, [], [], [], [], false⟩
      let s2 := s1.busyWith q .shootdown
      { s2 with host := { s2.host with shoot := some j } }) s

/-! ### CTXOUT, CTXIN, PREEMPT, ABORT (R268, R271, R282) -/

def Ctx.sealPend (x : Ctx) : Bool := x.sealJobs.any fun j => !j.sent

def State.runsIn (s : State) (c : Fin 64) : Bool := s.col.runs.any fun r => r.ctx == c

/-- Asking every running CELL task of a context; false where one is refused. -/
def State.askAll (c : Fin 64) : List Task → State → State × Bool
  | [], s => (s, true)
  | t :: ts, s =>
    if t.ctx == c && t.kind == TaskKind.cell && t.state == TaskState.running && t.req.isNone then
      match s.askPreempt t.stamp none with
      | some s1 => State.askAll c ts s1
      | none => ((State.askAll c ts s).1, false)
    else State.askAll c ts s

/-- A task of the context occupies a cell or an engine. -/
def State.occupied (s : State) (c : Fin 64) : Bool :=
  s.erg.tasks.any fun t => t.ctx == c && (t.state == TaskState.running || t.state == TaskState.ending)

/-- The context is out: the member's token stands in a pod job (R237, R271). -/
def State.switchOut (s : State) (c : Fin 64) : State :=
  let s1 := s.setCtx c { s.ctxAt c with switchedOut := true }
  if (s.ctxAt c).joined then s1.sendToken c true else s1

/-- CTXOUT goes on: refused, waiting for its tasks, or done. -/
def State.goOut (s : State) (q : Fin 64) (c : Fin 64) (refused : Bool) : State :=
  if refused || s.runsIn c || (s.ctxAt c).sealPend then s.answer q stBUSY
  else
    let r := State.askAll c s.erg.tasks s
    if !r.2 then r.1.answer q stBUSY
    else if r.1.occupied c then r.1.busyWith q (.ctxout c false)
    else (r.1.switchOut c).answer q stOK

def execCtxout (q : Fin 64) (s : State) : Outcome State Fault Refusal :=
  match (s.queueAt q).busy with
  | .ctxout c refused => .next (s.goOut q c refused)
  | _ => consume q 0x07 (fun s1 e => onContext s1 q e fun c => s1.goOut q c false) s

/-- The context is in again; its token goes with the first task placed (R271). -/
def execCtxin (q : Fin 64) (s : State) : Outcome State Fault Refusal :=
  consume q 0x08 (fun s1 e => onContext s1 q e fun c =>
    (s1.setCtx c { s1.ctxAt c with switchedOut := false }).answer q stOK) s

def execPreempt (q : Fin 64) (s : State) : Outcome State Fault Refusal :=
  consume q 0x09 (fun s1 e =>
    match s1.askPreempt (operand e 0) (some q) with
    | some s2 => s2.busyWith q (.preempt (operand e 0))
    | none => s1.answer q stBUSY) s

/-- The cell or engine of a task that has ended is free (R282). -/
def State.taskGone (s : State) (stamp : Nat) : Bool :=
  (s.taskOf stamp).isNone && !(s.cmds.any fun m => m.stamp == stamp) &&
    (List.finRange 256).all fun c => (s.cellAt c).task != some stamp

def State.finishAbort (s : State) (q : Fin 64) (stamp : Nat) : State := if s.taskGone stamp then s.answer q stOK else s

/-- ABORT: a task that has started ends ABORTED, one that has not ends CANCELLED. -/
def State.hostAbort (s : State) (q : Fin 64) (stamp : Nat) : State :=
  match s.taskOf stamp with
  | none => s.answer q stBOUNDS
  | some t =>
    if t.ctx ≠ (s.queueAt q).ctx then s.answer q stBOUNDS
    else
      let s1 :=
        match t.state with
        | .posted | .ready => s.endAbnormal t false
        | .running | .ending | .suspended => s.abortTask stamp 0x08 0 0
      (s1.busyWith q (.abort stamp)).finishAbort q stamp

def execAbort (q : Fin 64) (s : State) : Outcome State Fault Refusal :=
  match (s.queueAt q).busy with
  | .abort stamp => .next (s.finishAbort q stamp)
  | _ => consume q 0x0B (fun s1 e => s1.hostAbort q (operand e 0)) s

/-! ### PODJOIN, PODREMOVE, PODLEAVE (R286) -/

def treeJob (d : List Byte) : Nat := natAt d 0 4
def treeRank (d : List Byte) : Nat := bitsOf (natAt d 4 4) 0 12
def treeLead (d : List Byte) : Nat := bitsOf (natAt d 4 4) 16 2
def treeRoot (d : List Byte) : Bool := bitsOf (natAt d 8 4) 15 1 == 1
def treeParent (d : List Byte) : Nat := bitsOf (natAt d 8 4) 0 12
def treeNchild (d : List Byte) : Nat := bitsOf (natAt d 0xC 4) 0 5
def treeChild (d : List Byte) (i : Nat) : Nat := natAt d (0x10 + 2 * i) 2
def treeChildren (d : List Byte) : List Nat := (List.range (treeNchild d)).map fun i => treeChild d i % 4096
def joinLive (d : List Byte) : BitVec 4096 := BitVec.ofNat 4096 (natAt d 0x40 512)

/-- A reserved field of a join descriptor is not zero. -/
def joinReserved (d : List Byte) : Bool :=
  bitsOf (natAt d 4 4) 18 14 != 0 || bitsOf (natAt d 4 4) 12 4 != 0 || bitsOf (natAt d 8 4) 16 16 != 0 ||
  bitsOf (natAt d 8 4) 12 3 != 0 || bitsOf (natAt d 0xC 4) 5 27 != 0 || natAt d 0x30 16 != 0 ||
  (List.range 16).any fun i => bitsOf (treeChild d i) 12 4 != 0 || (decide (treeNchild d ≤ i) && treeChild d i != 0)

/-- The lowest set bit of a bitmap. -/
def lowestLive (v : BitVec 4096) : Option Nat := lowestFrom 4096 0 v.toNat

/-- The conditions of R286 under which PODJOIN completes with BOUNDS. -/
def joinBad (d : List Byte) : Bool :=
  let live := joinLive d
  treeJob d == 0 || treeLead d == 3 || decide (16 < treeNchild d) || joinReserved d || !live.getLsbD (treeRank d) ||
  ((treeChildren d).any fun r => !live.getLsbD r) || (!treeRoot d && !live.getLsbD (treeParent d)) ||
  (treeRoot d && treeParent d != 0) || treeRoot d != (lowestLive live == some (treeRank d))

def State.entriesArmed (s : State) (c : Fin 64) : Bool :=
  s.col.entries.toList.any fun (v : Vector (Option ArmedEntry) 16) => v.toList.any fun e =>
    match e with
    | some x => x.ctx == c
    | none => false

/-- The step state of R212 and R219 to R237 as formation and PODLEAVE leave it. -/
def Ctx.freshSteps (x : Ctx) : Ctx :=
  { x with
    isRoot := false, parent := 0, children := [], live := 0, step := 0, applied := 0, absent := false, conflict := false
    partialEnd := false, away := [], wins := [], newDefs := [], sealJobs := [], childSeals := [], released := [], records := []
    conflicts := [], tokenOut := false, job := 0, lead := 0, joined := false }

/-- PODJOIN of the descriptor `d`, which the host's memory has given or not. -/
def State.podJoin (s : State) (c : Fin 64) (readable : Bool) (d : List Byte) : State × Word :=
  let x := s.ctxAt c
  if x.joined || s.inFlight c || s.entriesArmed c || (s.ctxOfJob (treeJob d)).isSome then (s, stBUSY)
  else if !readable || joinBad d then (s, stBOUNDS)
  else
    (s.setCtx c { x.freshSteps with
      joined := true, rank := treeRank d, job := treeJob d, lead := treeLead d, isRoot := treeRoot d, parent := treeParent d
      children := treeChildren d, live := joinLive d }, stOK)

def execPodjoin (q : Fin 64) (s : State) : Outcome State Fault Refusal :=
  consume q 0x0C (fun s1 e => onContext s1 q e fun c =>
    let r := s1.podJoin c (Config.hostAnswers (operand e 1)) (s1.readHost (operand e 1) 576)
    r.1.answer q r.2) s

/-- A tree descriptor that is not the context's. -/
def Ctx.otherTree (x : Ctx) (d : List Byte) : Bool := treeJob d != x.job || treeRank d != x.rank || treeLead d != x.lead

def Ctx.withTree (x : Ctx) (d : List Byte) : Ctx :=
  { x with isRoot := treeRoot d, parent := treeParent d, children := treeChildren d }

/-- What a removed destination has not reported has failed with cause 0x05 (R231). -/
def BoundRec.removed (r : BoundRec) (rank : Nat) : BoundRec :=
  { r with dests := r.dests.map fun e => if e.rank == rank then e.timedOut else e }

/-- Taking a rank out of a member's view: its seals and reports are awaited no longer, and the lowest live member is the root. -/
def Ctx.without (x : Ctx) (rank : Nat) (tree : Option (List Byte)) : Ctx :=
  let y := match tree with | some d => x.withTree d | none => x
  let y1 : Ctx := { y with
    live := y.live &&& ~~~(BitVec.ofNat 4096 (2 ^ rank)), records := y.records.map fun r => r.removed rank }
  let y2 : Ctx := { y1 with isRoot := y1.isRoot || y1.home == y1.rank }
  y2.records.foldl (fun (z : Ctx) r => z.closeRec r.step) y2

def State.podRemove (s : State) (c : Fin 64) (rank : Nat) (tree : Option (List Byte)) : State × Word :=
  let x := s.ctxAt c
  if !x.joined || !x.live.getLsbD rank || rank == x.rank || (match tree with | some d => x.otherTree d | none => false) then (s, stBOUNDS)
  else
    let s1 := s.setCtx c (x.without rank tree)
    let s2 := if x.away.contains rank then s1.setAway c (x.away.filter (· != rank)) else s1
    (State.forwardSeals (x.sealJobs.length + 1) s2 c, stOK)

def execPodremove (q : Fin 64) (s : State) : Outcome State Fault Refusal :=
  consume q 0x0D (fun s1 e => onContext s1 q e fun c =>
    if 4095 < operand e 1 then s1.answer q stBOUNDS
    else
      let r := s1.podRemove c (operand e 1) (if operand e 2 = 0 then none else some (s1.readHost (operand e 2) 64))
      r.1.answer q r.2) s

/-- What the Caravan holds of a context is gone. -/
def State.clearFabric (s : State) (c : Fin 64) : State :=
  { s with fab := { s.fab with
      outRecs := s.fab.outRecs.filter fun r => r.ctx != c
      inRecs := s.fab.inRecs.filter fun r => r.ctx != c
      serveWaits := s.fab.serveWaits.filter fun r => r.ctx != c
      reads := s.fab.reads.filter fun r => r.ctx != c
      lines := s.fab.lines.filter fun r => r.ctx != c
      quotaUsed := s.fab.quotaUsed.filter fun k => k.1 != c.val } }

def State.podLeave (s : State) (c : Fin 64) : State × Word :=
  let x := s.ctxAt c
  if !x.joined then (s, stBOUNDS)
  else if s.inFlight c || s.entriesArmed c || s.runsIn c || x.sealPend || x.applied != x.step then (s, stBUSY)
  else ((s.setCtx c x.freshSteps).clearFabric c, stOK)

def execPodleave (q : Fin 64) (s : State) : Outcome State Fault Refusal :=
  consume q 0x0E (fun s1 e => onContext s1 q e fun c =>
    let r := s1.podLeave c
    r.1.answer q r.2) s

/-! ### Register writes with rows of their own -/

/-- DOORBELL: a value behind CONSUMED, or any while EN = 0, is ignored (R281). -/
def State.ringDoorbell (s : State) (q : Fin 64) (v : Word) : State :=
  let h := s.queueAt q
  let d : BitVec 32 := v.truncate 32
  if h.en && seqReached d h.consumed then s.setQueue q { h with doorbell := d } else s

def execDoorbell (q : Fin 64) (v : Word) (s : State) : Outcome State Fault Refusal := .next (s.ringDoorbell q v)

/-- TRIGGER: carried out after every entry whose doorbell came before it (R285). -/
def State.pullTrigger (s : State) (q : Fin 64) (v : Word) : State :=
  let h := s.queueAt q
  if !h.en then s
  else
    let s1 := s.setQueue q { h with trigs := h.trigs ++ [⟨field v 10 54 * 1024, field v 0 10, h.doorbell⟩] }
    if s1.queueOpen q then
      match (s1.queueAt q).dueTrig with
      | some t => s1.startTrig q t
      | none => s1
    else s1

def execTrigger (q : Fin 64) (v : Word) (s : State) : Outcome State Fault Refusal := .next (s.pullTrigger q v)

/-- QCTL: with EN = 1 only EN may change, and a write that would change CLASS is ignored whole (R18, R280); EN rising resets the
counters (R281), also while a command of the time before is in progress, which then completes (log entry 21). -/
def State.writeQctl (s : State) (q : Fin 64) (v : Word) : State :=
  let h := s.queueAt q
  if h.en then
    if bitAt v 1 != h.bounded then s else s.setQueue q { h with en := bitAt v 0 }
  else
    let h1 : HQueue := { h with cmask := BitVec.ofNat 16 (field v 16 16), ctx := Fin.ofNat 64 (field v 4 6), admin := bitAt v 2, bounded := bitAt v 1 }
    if bitAt v 0 then
      s.setQueue q { h1 with en := true, doorbell := 0, consumed := 0, completed := 0, tcount := 0, nrec := 0, trigs := [] }
    else s.setQueue q h1

def execQctl (q : Fin 64) (v : Word) (s : State) : Outcome State Fault Refusal := .next (s.writeQctl q v)

def execRestart (v : Word) (s : State) : Outcome State Fault Refusal := if bitAt v 0 then .next (s.startW4 4) else .next s

/-- PCAP: a value that R15 does not allow is ignored and sets BADW (R279). -/
def State.writePcap (s : State) (v : Word) : State :=
  if capValid (field v 0 12) then { s with host := { s.host with cap := field v 0 12 } } else { s with host := { s.host with badw := true } }

def execPcap (v : Word) (s : State) : Outcome State Fault Refusal := .next (s.writePcap v)

/-- A read of an error counter: both fields are RC (R109). -/
def execEccCounterRead (id : Fin 45) (s : State) : Outcome State Fault Refusal :=
  .next { s with host := { s.host with readData := s.mem.ecc[id] }, mem := { s.mem with ecc := s.mem.ecc.set id 0 } }

end Sys2Proof.Machine
end

