-- ==== Sys2Proof/Machine/HostReg.lean ====
section
/-! DEFINITION. The registers of BAR0 (R5, R86, R109, R211, R238, R267, R277 to R280, R293): what each reads as, and what a write of 4 or
8 bytes does. A register is judged in 8-byte words; a half that a write leaves out keeps its value, and counts as zeros where a write
acts (W1C, WO). -/

namespace Sys2Proof.Machine

open Host (Outcome)

/-! ### Where a register lies -/

/-- The block of BAR0 that an offset lies in, with the offset inside it (R277). -/
inductive RegBlock where
  | device (o : Nat)
  | queue (q : Fin 64) (o : Nat)
  | context (c : Fin 64) (o : Nat)
  | ecc (id : Fin 45)
  | route (d : Fin 2048)
  | sand (o : Nat)
  | none
  deriving DecidableEq, Repr

/-- The block of an 8-byte word. The route table has two entries in each. -/
def regBlock (o : Nat) : RegBlock :=
  if o < 0x10000 then .device o
  else if o < 0x14000 then .queue (Fin.ofNat 64 ((o - 0x10000) / 0x100)) (o % 0x100)
  else if o < 0x100000 then .none
  else if o < 0x140000 then .context (Fin.ofNat 64 ((o - 0x100000) / 0x1000)) (o % 0x1000)
  else if o < 0x200000 then .none
  else if o < 0x210000 then (if h : (o - 0x200000) / 8 < 45 then .ecc ⟨(o - 0x200000) / 8, h⟩ else .none)
  else if o < 0x214000 then .route (Fin.ofNat 2048 ((o - 0x210000) / 8))
  else if o < 0x300000 then .none
  else if o < 0x340000 then .sand (o - 0x300000)
  else .none

/-- An access that BAR0 takes: 4 or 8 bytes, naturally aligned, within 16 MiB (R277). -/
def regAccess (off bytes : Nat) : Bool := (bytes == 4 || bytes == 8) && off % bytes == 0 && decide (off + bytes ≤ 2 ^ 24)

/-! ### Reads -/

def readDevice (s : State) (o : Nat) : Word :=
  let f := s.mgmt.fw
  match o with
  | 0x00 => word (0xD009 * 2 ^ 16 + Config.stepping.toNat)
  | 0x08 => word (f.siroccoVer.toNat * 2 ^ 32 + f.cairnVer.toNat)
  | 0x10 => f.svn.zeroExtend 64
  | 0x18 => word s.host.cap
  | 0x20 =>
    let power := if s.host.window = 0 then 0 else (Config.power (s.host.window - 1) s.host.lastClk).toNat
    word (power * 2 ^ 32 + s.host.mclk * 2 ^ 16 + (if s.host.badw then 1 else 0))
  | 0x28 => f.cfgst.zeroExtend 64
  | _ => 0

def bit (b : Bool) (i : Nat) : Nat := if b then 2 ^ i else 0

def readQueue (h : HQueue) (o : Nat) : Word :=
  match o with
  | 0x00 => word (h.cmask.toNat * 2 ^ 16 + h.ctx.val * 2 ^ 4 + bit h.admin 2 + bit h.bounded 1 + bit h.en 0)
  | 0x08 => word (h.rbase.toNat + h.logn)
  | 0x10 => h.cbase
  | 0x20 => word (h.consumed.toNat * 2 ^ 32 + h.completed.toNat)
  | 0x30 => h.tcount.zeroExtend 64
  | _ => 0

def readContext (x : Ctx) (o : Nat) : Word :=
  match o with
  | 0x000 => x.root
  | 0x008 => x.vbase
  | 0x010 => word x.vlimit
  | 0x018 => word x.vslot
  | 0x020 => word (x.spillpri * 2 ^ 16 + x.rename * 2 ^ 8 + x.scratch)
  | 0x028 => word x.tkey
  | 0x100 => word (x.owner * 2 ^ 8 + x.lead)
  | 0x108 => word (x.ispill * 2 ^ 16 + x.ospill)
  | 0x110 => x.ospbase
  | 0x118 => x.ispbase
  | 0x120 => x.mcbase
  | 0x128 => x.stmo.zeroExtend 64
  | 0x200 => word (field x.savebase 16 36 * 2 ^ 16 + x.slots)
  | 0x208 => x.twd.zeroExtend 64
  | 0x300 => x.wdef.zeroExtend 64
  | 0x308 => word x.equota
  | 0x310 => word (x.lbase * 2 ^ 16)
  | _ => 0

/-- Word `o` of the window onto the Sandglass: event e lies at 32 × (e mod 8,192) (R293). -/
def readSand (s : State) (o : Nat) : Word :=
  match s.mgmt.sand.find? (fun e => e.number % 8192 == o / 32) with
  | none => 0
  | some e => match o % 32 with | 0 => word e.number | 8 => word e.ns | 16 => e.word | _ => e.payload

def routePair (s : State) (d : Fin 2048) : Word :=
  word (s.fab.routes[2 * d.val].toNat + s.fab.routes[2 * d.val + 1].toNat * 2 ^ 32)

/-- The 8-byte word at a multiple of 8; what no register map lists reads as zero, and so does a WO register (R5, R277). -/
def State.regWord (s : State) (o : Nat) : Word :=
  match regBlock o with
  | .device a => readDevice s a
  | .queue q a => readQueue (s.queueAt q) a
  | .context c a => readContext (s.ctxAt c) a
  | .ecc id => s.mem.ecc[id]
  | .route d => routePair s d
  | .sand a => readSand s a
  | .none => 0

/-- Bits of an 8-byte word that an access covers. -/
def laneMask (off bytes : Nat) : Nat := if bytes = 8 then 2 ^ 64 - 1 else (2 ^ 32 - 1) * 2 ^ (8 * (off % 8))

/-- The fields of an error counter that a read returns are cleared (R5, R109). -/
def State.clearRead (s : State) (off bytes : Nat) : State :=
  match regBlock (off / 8 * 8) with
  | .ecc id => { s with mem := { s.mem with ecc := s.mem.ecc.set id (s.mem.ecc[id] &&& ~~~(word (laneMask off bytes))) } }
  | _ => s

/-- A host read; what an access that BAR0 does not take returns is the host's matter (R277). -/
def State.hostRead (s : State) (off bytes : Nat) : State :=
  if regAccess off bytes then
    let w := s.regWord (off / 8 * 8)
    let v := if bytes = 8 then w else word (field w (8 * (off % 8)) 32)
    { s with host := { s.host with readData := v } }.clearRead off bytes
  else s

/-! ### Writes -/

/-- A write as a register sees it: the lanes it covers, the written value with zeros elsewhere, and the word it asks for. -/
structure RegWrite where
  mask : Nat
  val : Word
  new : Word

def State.regWrite (s : State) (off bytes : Nat) (v : Word) : RegWrite :=
  let m := laneMask off bytes
  let w := word (if bytes = 8 then v.toNat else field v 0 32 * 2 ^ (8 * (off % 8)))
  ⟨m, w, (s.regWord (off / 8 * 8) &&& ~~~(word m)) ||| w⟩

/-- The low half of the word is written. -/
def RegWrite.low (w : RegWrite) : Bool := bitAt (word w.mask) 0

def State.writeDevice (s : State) (o : Nat) (w : RegWrite) : State :=
  match o with
  | 0x18 => if w.low then s.writePcap w.new else s
  | 0x20 => if bitAt w.val 0 then { s with host := { s.host with badw := false } } else s
  | 0x30 => if bitAt w.val 0 then s.startW4 4 else s
  | _ => s

/-- LOGN outside 4 to 15 leaves LOGN as it was (R280). -/
def HQueue.withRbase (h : HQueue) (v : Word) : HQueue :=
  { h with rbase := word (field v 12 52 * 2 ^ 12), logn := if 4 ≤ field v 0 4 then field v 0 4 else h.logn }

/-- Writes of a queue's block. DESIGN CHOICE (log entry 40): DOORBELL and TRIGGER act where the access covers the low half of their word; a
4-byte write of TRIGGER's high half alone does nothing. -/
def State.writeQueue (s : State) (q : Fin 64) (o : Nat) (w : RegWrite) : State :=
  let h := s.queueAt q
  match o with
  | 0x00 => if w.low then s.writeQctl q w.new else s
  | 0x08 => if h.en then s else s.setQueue q (h.withRbase w.new)
  | 0x10 => if h.en then s else s.setQueue q { h with cbase := word (field w.new 12 52 * 2 ^ 12) }
  | 0x18 => if w.low then s.ringDoorbell q w.val else s
  | 0x28 => if w.low then s.pullTrigger q w.val else s
  | _ => s

/-- The memory and parameter blocks change at any time; the step block only outside a pod job (R211), the recovery block only with
no task in flight (R267). -/
def Ctx.written (x : Ctx) (busy : Bool) (o : Nat) (v : Word) : Ctx :=
  match o with
  | 0x000 => { x with root := word (field v 16 36 * 2 ^ 16 + field v 0 1) }
  | 0x028 => { x with tkey := field v 0 10 }
  | 0x100 => if x.joined then x else { x with owner := field v 8 8 }
  | 0x108 => if x.joined then x else { x with ispill := spillSize (field v 16 14) x.ispill, ospill := spillSize (field v 0 14) x.ospill }
  | 0x110 => if x.joined then x else { x with ospbase := word (field v 20 32 * 2 ^ 20) }
  | 0x118 => if x.joined then x else { x with ispbase := word (field v 20 32 * 2 ^ 20) }
  | 0x120 => if x.joined then x else { x with mcbase := word (field v 17 35 * 2 ^ 17) }
  | 0x128 => if x.joined then x else { x with stmo := v.truncate 32 }
  | 0x200 => if busy then x else { x with savebase := word (field v 16 36 * 2 ^ 16), slots := slotCount (field v 0 11) x.slots }
  | 0x208 => if busy then x else { x with twd := v.truncate 32 }
  | 0x300 => { x with wdef := v.truncate 32 }
  | 0x308 => { x with equota := min (field v 0 13) 4096 }
  | 0x310 => { x with lbase := field v 16 10 }
  | _ => x
where
  /-- ISPILL and OSPILL run from 0 to 8,192; another value leaves the field (log entry 22). -/
  spillSize (n old : Nat) : Nat := if n ≤ 8192 then n else old
  /-- SLOTS runs from 0 to 1,024; another value leaves the field (log entry 22). -/
  slotCount (n old : Nat) : Nat := if n ≤ 1024 then n else old

/-- A route entry without its reserved bits (R238). -/
def routeEntry (v : Nat) : BitVec 32 := BitVec.ofNat 32 v &&& 0xBFBFBFBF#32

def State.writeRoutes (s : State) (d : Fin 2048) (w : RegWrite) : State :=
  let r0 := s.fab.routes.set (2 * d.val) (routeEntry (field w.new 0 32))
  { s with fab := { s.fab with routes := r0.set (2 * d.val + 1) (routeEntry (field w.new 32 32)) } }

/-- A host write to BAR0, under the access code of each field (R5) and R18. -/
def State.hostWrite (s : State) (off bytes : Nat) (v : Word) : State :=
  if regAccess off bytes then
    let w := s.regWrite off bytes v
    match regBlock (off / 8 * 8) with
    | .device o => s.writeDevice o w
    | .queue q o => s.writeQueue q o w
    | .context c o => s.setCtx c ((s.ctxAt c).written (s.inFlight c) o w.new)
    | .route d => s.writeRoutes d w
    | .ecc _ => s
    | .sand _ => s
    | .none => s
  else s

def execRegisterWrite (off bytes : Nat) (v : Word) (s : State) : Outcome State Fault Refusal := .next (s.hostWrite off bytes v)

end Sys2Proof.Machine
end

