-- ==== Sys2Proof/Machine/Firmware.lean ====
section
/-! DEFINITION. Firmware: the command links (R287), updates and the hot hand-over (R289, R290), SPDM (R292) and reads of the Sandglass
over MCTP (R293). -/

namespace Sys2Proof.Machine

open Host (Outcome)

/-! ### Command links (R287) -/

def State.setLink (s : State) (n : Fin 16) (l : Link) : State :=
  { s with mgmt := { s.mgmt with fw := { s.mgmt.fw with links := s.mgmt.fw.links.set n l } } }

/-- The link that a core's CSRs address: CSR 0x7C4 selects it on the Sirocco core. -/
def State.linkOf (s : State) : FwCore → Fin 16
  | .sirocco => s.mgmt.fw.linkSel
  | .cairn n => n

/-- A send spends a permit; without one the word is dropped and DROP is set. -/
def Link.send (l : Link) (core : FwCore) (w : Word) : Link :=
  match core with
  | .sirocco =>
    if l.permitS = 0 then { l with dropS := true } else { l with permitS := l.permitS - 1, toCairn := l.toCairn ++ [w] }
  | .cairn _ =>
    if l.permitC = 0 then { l with dropC := true } else { l with permitC := l.permitC - 1, toSirocco := l.toSirocco ++ [w] }

def execLsend (core : FwCore) (w : Word) (s : State) : Outcome State Fault Refusal :=
  .next (s.setLink (s.linkOf core) (s.mgmt.fw.links[s.linkOf core].send core w))

/-- A read takes the next word and returns its permit to the sender; it gives 0 where the link is empty. -/
def Link.recv (l : Link) (core : FwCore) : Link × Word :=
  match core with
  | .sirocco =>
    match l.toSirocco with
    | [] => (l, 0)
    | w :: ws => ({ l with toSirocco := ws, permitC := l.permitC + 1 }, w)
  | .cairn _ =>
    match l.toCairn with
    | [] => (l, 0)
    | w :: ws => ({ l with toCairn := ws, permitS := l.permitS + 1 }, w)

def execLrecv (core : FwCore) (s : State) : Outcome State Fault Refusal :=
  let r := s.mgmt.fw.links[s.linkOf core].recv core
  let s1 := s.setLink (s.linkOf core) r.1
  .next { s1 with host := { s1.host with readData := r.2 } }

/-- LPERMIT and LSTAT as a core reads them. -/
def Link.permits (l : Link) : FwCore → Nat
  | .sirocco => l.permitS
  | .cairn _ => l.permitC

def Link.status (l : Link) : FwCore → Word
  | .sirocco => word (bit l.dropS 0 + bit (!l.toSirocco.isEmpty) 1 + bit l.lostS 2)
  | .cairn _ => word (bit l.dropC 0 + bit (!l.toCairn.isEmpty) 1 + bit l.lostC 2)

/-- A write of LSTAT: a 1 clears DROP or the note of a lost heartbeat. -/
def Link.clearStatus (l : Link) (core : FwCore) (v : Word) : Link :=
  match core with
  | .sirocco => { l with dropS := l.dropS && !bitAt v 0, lostS := l.lostS && !bitAt v 2 }
  | .cairn _ => { l with dropC := l.dropC && !bitAt v 0, lostC := l.lostC && !bitAt v 2 }

/-! ### Updates (R289) -/

def State.setFw (s : State) (f : Firmware) : State := { s with mgmt := { s.mgmt with fw := f } }

def State.tell (s : State) (m : MctpOut) : State := { s with mgmt := { s.mgmt with mctp := s.mgmt.mctp ++ [m] } }

/-- The FIRMWARE event: its kind, with the security version number of the image (R294). -/
def State.logFw (s : State) (kind : Nat) (image : List Byte) : State := s.sandglass 0x000E 0x200 kind (word (Config.imageSvn image))

/-- Size of the staging region. -/
def stagingBytes : Nat := 32 * 2 ^ 20

def execImageStaged (component : Nat) (image : List Byte) (s : State) : Outcome State Fault Refusal :=
  if component < 1 || 3 < component || stagingBytes < image.length then .next s
  else .next (((s.setFw { s.mgmt.fw with staged := some ⟨component, image, false⟩ }).writePlain (schedKey Config.stagingAt.val) image).logFw 0 image)

/-- The image as the staging region holds it now. -/
def State.stagedNow (s : State) (g : Staged) : Staged := { g with image := s.readSched (schedKey Config.stagingAt.val) g.image.length }

/-- The three checks of R289. -/
def State.imageGood (s : State) (g : Staged) : Bool :=
  Config.verifies g.image && decide (s.mgmt.fw.svn.toNat ≤ Config.imageSvn g.image) &&
  Config.imageLength g.image == g.image.length && Config.imageTarget g.image == g.component

def execVerifyComplete (s : State) : Outcome State Fault Refusal :=
  match s.mgmt.fw.staged with
  | none => .next s
  | some g0 =>
    let g := s.stagedNow g0
    if s.imageGood g then .next ((s.setFw { s.mgmt.fw with staged := some { g with verified := true } }).tell (.verifyResult true))
    else .next (((s.setFw { s.mgmt.fw with staged := none }).logFw 1 g.image).tell (.verifyResult false))

/-- Activation: a record waits for the next power-up or W5; an image takes over while consumption is stopped and every control block is
committed (R290). -/
def State.activate (s : State) (g : Staged) : State :=
  if g.component = 3 then
    s.setFw { s.mgmt.fw with staged := none, nextRecord := some { Config.recordOf g.image with raw := g.image } }
  else
    (({ s with host := s.host.commit } : State).setFw { s.mgmt.fw with staged := none, handover := some (s.clk.fs, g), replaced := 0 }).logFw 2
      g.image

def execActivateFirmware (s : State) : Outcome State Fault Refusal :=
  match s.mgmt.fw.staged with
  | none => .next s
  | some g => if g.verified && s.serving then .next ((s.activate g).tell .activated) else .next s

/-- No heartbeat of the new image within 10 ms: W4 restarts the old one. -/
def execHandoverHeartbeatTimeout (s : State) : Outcome State Fault Refusal :=
  match s.mgmt.fw.handover with
  | none => .next s
  | some (since, g) => if 10000000000000 ≤ s.clk.fs - since then .next ((s.logFw 4 g.image).startW4 1) else .next s

/-- The new image's heartbeat has come and every controller is updated: the versions, and with them measurements 2 and 3, are new. -/
def Firmware.takeOver (f : Firmware) (g : Staged) (fs : Nat) : Firmware :=
  let v := Config.imageVersion g.image
  { f with
    siroccoVer := if g.component = 1 then v else f.siroccoVer
    cairnVer := if g.component = 2 then v else f.cairnVer
    siroccoImage := if g.component = 1 then g.image else f.siroccoImage
    cairnImage := if g.component = 2 then g.image else f.cairnImage
    handover := none, replaced := 0, siroccoBeat := fs, cairnBeat := Vector.replicate 16 fs }

def execHandOverComplete (s : State) : Outcome State Fault Refusal :=
  match s.mgmt.fw.handover with
  | none => .next s
  | some (_, g) =>
    if s.mgmt.fw.replaced = 16 then .next ((s.setFw (s.mgmt.fw.takeOver g s.clk.fs)).logFw 3 g.image) else .next s

/-! ### SPDM (R292): the response codes and field places of SPDM 1.2 (log entry 23) -/

def execGetVersion (_req : List Byte) (s : State) : Outcome State Fault Refusal := .next (s.tell (.spdm 0x04 (bytesOf 2 0x0100 ++ bytesOf 2 0x1200)))

def execGetCapabilities (req : List Byte) (s : State) : Outcome State Fault Refusal := .next (s.tell (.spdm 0x61 (Config.spdmBody 0x61 req)))

/-- TPM_ALG_RSASSA_4096 and TPM_ALG_SHA_512 only: bit 2 of each selection. -/
def algorithmsBody (req : List Byte) : List Byte :=
  let b := padTo 16 (Config.spdmBody 0x63 req)
  b.take 8 ++ bytesOf 4 4 ++ bytesOf 4 4 ++ b.drop 16

def execNegotiateAlgorithms (req : List Byte) (s : State) : Outcome State Fault Refusal := .next (s.tell (.spdm 0x63 (algorithmsBody req)))

def execGetDigests (_req : List Byte) (s : State) : Outcome State Fault Refusal := .next (s.tell (.spdm 0x01 (Config.certDigest 0)))

/-- The part of the chain that the request names by offset and length. -/
def certificateBody (req : List Byte) : List Byte :=
  let chain := Config.certChain 0
  let part := (chain.drop (natAt req 4 2)).take (natAt req 6 2)
  bytesOf 2 part.length ++ bytesOf 2 (chain.length - natAt req 4 2 - part.length) ++ part

def execGetCertificate (req : List Byte) (s : State) : Outcome State Fault Refusal := .next (s.tell (.spdm 0x02 (certificateBody req)))

def execChallenge (req : List Byte) (s : State) : Outcome State Fault Refusal :=
  let b := Config.spdmBody 0x03 req
  .next (s.tell (.spdm 0x03 (b ++ Config.signature (req ++ b))))

/-- The value of measurement `i`: digests of the boot ROM, of the running images and of the record in force, and the security version
number as it is. A record that is absent or rejected has no bytes. -/
def State.measured (s : State) (i : Nat) : List Byte :=
  let f := s.mgmt.fw
  match i with
  | 1 => Config.measurement 1 Config.bootRom
  | 2 => Config.measurement 2 f.siroccoImage
  | 3 => Config.measurement 3 f.cairnImage
  | 4 => Config.measurement 4 (if f.cfgst = 1 then (f.record.map (·.raw)).getD [] else [])
  | _ => bytesOf 8 f.svn.toNat

/-- DMTFSpecMeasurementValueType: the components of the boot ROM, of firmware, of a configuration and of a version number; bit 7 marks the
raw bit stream (R292; the places are those of SPDM 1.2, log entry 23). -/
def measureType (i : Nat) : Nat :=
  match i with
  | 1 => 0x00 | 2 | 3 => 0x01 | 4 => 0x03 | _ => 0x87

/-- Measurement block `i`: its index, the DMTF measurement specification, the size, and the measurement with its type. -/
def State.measurementOf (s : State) (i : Nat) : List Byte :=
  let v := s.measured i
  bytesOf 1 i ++ bytesOf 1 1 ++ bytesOf 2 (v.length + 3) ++ bytesOf 1 (measureType i) ++ bytesOf 2 v.length ++ v

/-- Index 0 asks how many there are and 0xFF for all of them; an index that the device does not hold is an error. -/
def execGetMeasurements (index : Nat) (s : State) : Outcome State Fault Refusal :=
  if index = 0 then .next (s.tell (.spdm 0x60 (bytesOf 1 5)))
  else if index = 0xFF then .next (s.tell (.spdm 0x60 ([1, 2, 3, 4, 5].flatMap s.measurementOf)))
  else if index ≤ 5 then .next (s.tell (.spdm 0x60 (s.measurementOf index)))
  else .next (s.tell (.spdm 0x7F []))

/-! ### The Sandglass over MCTP (R293) -/

def execSandglassRead (first count : Nat) (s : State) : Outcome State Fault Refusal :=
  if count < 1 || 32 < count then .next s
  else .next (s.tell (.events (s.mgmt.sand.filter fun e => decide (first ≤ e.number) && decide (e.number < first + count))))

end Sys2Proof.Machine
end

