-- ==== Sys2Proof/Machine/TaskGrp.lean ====
section
/-! DEFINITION. The task group, major 0x25 (R368, R369, R375 to R378, R416 to R418, R420): TPOST, TPOSTX, TSTAT, FRDEF, FRFREE, LARM and
LPATCH. All but TSTAT pass through the post sequencer, in program order. -/

namespace Sys2Proof.Machine

open Host (Outcome)

/-- Queueing an operation of the acting sequencer, which issues nothing until its result is written. -/
def State.askPost (s : State) (d : Reg) (op : PostOp) (wait : Bool) : IRes :=
  .wait (s.enqueuePost (.seq s.cell s.role d) s.ctxIx op wait s.me.wintmo.toNat) (.post s.clk.nextId)

/-- A load of `n` bytes in stream 0 after every earlier access of the sequencer (R369, R417); it needs a request slot (R101). -/
def State.captureBytes (s : State) (addr n : Nat) : XR (List Byte) := s.performMine.readBytes (s.seqAgent 0) none addr n

/-- `TpostExec` of R417. -/
def execTpost (d a : Reg) (w : Bool) (s : State) : Outcome State Fault Refusal :=
  plainInstr (fun s =>
    let p := (s.g a).toNat
    if p % 256 != 0 then .trap (trapOf cMISALIGNED 0 (s.g a))
    else s.withSlot ((s.captureBytes p 256).thenI s fun s1 r => s1.askPost d (.task r) w)) s

/-- A TPOSTX whose record is captured: its answer is BOUNDS or UNREACHABLE at once, or the record leaves (R418). -/
def State.sendPost (s : State) (x res : Word) (w : Bool) (r : List Byte) : State :=
  let c := s.myCtx
  let rem : Remote :=
    ⟨s.clk.nextId, s.ctxIx, s.cell, s.role, field x 0 12, res, field x 16 16, s.myCell.boxes, s.clk.fs, none, 0⟩
  let s1 := { s.bump with fab := { s.fab with remotes := s.fab.remotes ++ [rem] } }
  if field x 32 32 != 0 || field x 12 4 != 0 then s1.answerRemote rem stBOUNDS
  else if !c.joined then s1.answerRemote rem stUNREACHABLE
  else
    match s1.send c .request (field x 0 12) (seqAgentId s.cell s.role 0) (.post rem.id w r) with
    | some s2 => s2
    | none => s1.answerRemote rem stUNREACHABLE

/-- `TpostxExec` of R418. -/
def execTpostx (a b c : Reg) (w : Bool) (s : State) : Outcome State Fault Refusal :=
  plainInstr (fun s =>
    let p := (s.g a).toNat
    let res := (s.g c).toNat
    if p % 256 != 0 then .trap (trapOf cMISALIGNED 0 (s.g a))
    else if res % 8 != 0 then .trap (trapOf cMISALIGNED 0 (s.g c))
    else
      s.withSlot ((s.planAccess (s.seqAgent 0) .write none res 8).thenI s fun s0 _ =>
        (s0.captureBytes p 256).thenI s fun s1 r => .done (s1.sendPost (s.g b) (s.g c) w r))) s

/-- The code of R80 for a task in flight. -/
def taskCode : TaskState → Nat
  | .posted => 0 | .ready => 1 | .running => 2 | .ending => 3 | .suspended => 4

/-- The code of R80 for a ticket, as a context asks: UNKNOWN for a number never issued and for a task of another context. DESIGN CHOICE (log
entry 40): a ticket that the ring holds answers ABORTED or CANCELLED even where its stamp is at or below the watermark. -/
def State.ticketCode (s : State) (ctx : Fin 64) (n : Nat) : Nat :=
  if smGet 0 n s.erg.issuers ≠ ctx.val + 1 then 9
  else
    match s.taskOf n with
    | some t => taskCode t.state
    | none =>
      match s.erg.abEnds.find? (·.stamp == n) with
      | some e => if e.aborted then 6 else 7
      | none => if n ≤ s.erg.watermark then 8 else 5

def execTstat (d a : Reg) (s : State) : Outcome State Fault Refusal :=
  plainInstr (fun s => .done (s.setG d (word (s.ticketCode s.ctxIx (s.g a).toNat)))) s

/-- `FrdefExec` of R369. -/
def execFrdef (d a b : Reg) (s : State) : Outcome State Fault Refusal :=
  plainInstr (fun s =>
    let p := (s.g b).toNat
    if p % 64 != 0 then .trap (trapOf cMISALIGNED 0 (s.g b))
    else s.withSlot ((s.captureBytes p 64).thenI s fun s1 r => s1.askPost d (.frdef (s.g a).toNat r) false)) s

def execFrfree (d a : Reg) (s : State) : Outcome State Fault Refusal :=
  plainInstr (fun s => s.askPost d (.frfree (s.g a).toNat) false) s

/-- Acceptance of the block releases the earlier accesses of the sequencer (R376). -/
def execLarm (d a : Reg) (s : State) : Outcome State Fault Refusal :=
  plainInstr (fun s => s.performMine.askPost d (.larm (s.g a).toNat) false) s

/-- gB is read at issue (R377). -/
def execLpatch (d a b : Reg) (s : State) : Outcome State Fault Refusal :=
  plainInstr (fun s => s.askPost d (.lpatch (s.g a) (s.g b)) false) s

end Sys2Proof.Machine
end

