-- ==== Sys2Proof/Machine/Wake.lean ====
section
/-! DEFINITION. How waits end (R45 to R47, R202, R208, R228, R403): the wake of a sequencer whose condition has become true, and the
bounds of FWAIT, SWAIT, BWAIT and PAUSE. -/

namespace Sys2Proof.Machine

open Host (Outcome)

/-- The engine of a code of R258. -/
def engOf (n : Nat) : Eng :=
  match n with
  | 0 => .load | 1 => .matrix | 2 => .drain | 3 => .chain | 4 => .copy | 5 => .xpose | 6 => .nmv | _ => .coll

/-- Every queue of a pop has its entries filled (R36, R38). -/
def Cell.poppable (x : Cell) (need : List (Fin 4 × Nat)) : Bool := need.all fun n => (headEntries x.dq[n.1] n.2).isSome

/-- The condition of a wait of R45 holds: the value it hands to the instruction, if the unit kept one. -/
def State.wakes (s : State) (c : Fin 256) (q : Role) (w : Wait) : Option (Option Word) :=
  let x := s.cellAt c
  let when (b : Bool) : Option (Option Word) := if b then some none else none
  match w with
  | .tokens mask => when (x.canTake q mask)
  | .popQueue need => when (x.poppable need)
  | .pushQueue i n => when (decide (x.dq[i].length + n ≤ 8))
  | .fmtEmpty => when (!x.fmtq.isEmpty || (x.seqOf .K).status == .ended)
  | .fmtFull => when (decide (x.fmtq.length < 16))
  | .engine e => when (decide (s.queueLen (engOf e) (unitOf (engOf e) c) < 16))
  | .flag _ _ _ _ _ _ _ sat => sat.map fun v => some (v.zeroExtend 64)
  | .barrier _ _ _ _ _ sat => sat.map some
  | .step _ _ _ _ _ sat => if sat then some (some stOK) else none
  | .pause _ | .post _ | .home .. => none

/-- Back into the ready set, with the tokens that the instruction holds and the value it waited for. A BWAIT leaves its object. -/
def State.rejoin (s : State) (c : Fin 256) (q : Role) (latch : Option Word) : State :=
  let y := s.seqAt c q
  let s1 := s.setSeq c q { y with status := .ready, latch := latch }
  match y.status with
  | .waiting (.barrier addr _ _ _ _ _) => s1.lowerWaiters (s.cellAt c).ctx addr.toNat
  | _ => s1

/-- A waiting sequencer whose condition has become true issues its instruction again (R47). -/
def execSequencerWake (c : Fin 256) (q : Role) (s : State) : Outcome State Fault Refusal :=
  match (s.seqAt c q).status with
  | .waiting w =>
    match s.wakes c q w with
    | some v => .next (s.rejoin c q v)
    | none => .next s
  | _ => .next s

/-- An expired wait: TIMEOUT is written and the instruction completes, or a `.t` form traps. -/
def State.expire (s : State) (c : Fin 256) (q : Role) (t : Bool) (d : Reg) (eval : Word) : State :=
  s.onSeq c q fun u => if t then u.takeTrap (trapOf cTIMEOUT 0 eval) else ((u.endWait c q).setG d stTIMEOUT).advance 4

/-- WINTMO of an FWAIT or SWAIT has passed (R202, R228). -/
def execWaitTimeout (c : Fin 256) (q : Role) (s : State) : Outcome State Fault Refusal :=
  match (s.seqAt c q).status with
  | .waiting (.flag addr _ _ t d bound elapsed none) => if bound ≤ elapsed then .next (s.expire c q t d addr) else .next s
  | .waiting (.step n t d bound elapsed false) => if bound ≤ elapsed then .next (s.expire c q t d (n.zeroExtend 64)) else .next s
  | _ => .next s

/-- TMO of the object a BWAIT waits on has passed; 0 sets no bound (R205, R208). -/
def execBwaitTimeout (c : Fin 256) (q : Role) (s : State) : Outcome State Fault Refusal :=
  match (s.seqAt c q).status with
  | .waiting (.barrier addr _ t d elapsed none) =>
    let tmo := (s.flagAt (s.cellAt c).ctx (addr.toNat + 8)).toNat
    if tmo != 0 && decide (tmo * 1024 ≤ elapsed) then .next (s.expire c q t d addr) else .next s
  | _ => .next s

/-- The 16 mc of a PAUSE are over (R403). -/
def execPauseEnd (c : Fin 256) (q : Role) (s : State) : Outcome State Fault Refusal :=
  match (s.seqAt c q).status with
  | .waiting (.pause 0) => .next (s.onSeq c q fun u => u.advance 4)
  | _ => .next s

end Sys2Proof.Machine
end

