-- ==== Sys2Proof/Machine/Dispatch.lean ====
section
/-! DEFINITION. What each instruction and event does: one arm for every constructor, each a call of its meaning. -/

namespace Sys2Proof.Machine

open Host (Outcome)

def exec (i : Instr) (s : State) : Host.Outcome State Fault Refusal :=
  match i with
  | .add d a b => Sys2Proof.Machine.execAdd d a b s
  | .sub d a b => Sys2Proof.Machine.execSub d a b s
  | .mul d a b => Sys2Proof.Machine.execMul d a b s
  | .mulh d a b n => Sys2Proof.Machine.execMulh d a b n s
  | .div d a b n => Sys2Proof.Machine.execDiv d a b n s
  | .rem d a b n => Sys2Proof.Machine.execRem d a b n s
  | .and d a b => Sys2Proof.Machine.execAnd d a b s
  | .or d a b => Sys2Proof.Machine.execOr d a b s
  | .xor d a b => Sys2Proof.Machine.execXor d a b s
  | .shl d a b => Sys2Proof.Machine.execShl d a b s
  | .shr d a b => Sys2Proof.Machine.execShr d a b s
  | .sra d a b => Sys2Proof.Machine.execSra d a b s
  | .min d a b n => Sys2Proof.Machine.execMin d a b n s
  | .max d a b n => Sys2Proof.Machine.execMax d a b n s
  | .clz d a => Sys2Proof.Machine.execClz d a s
  | .popc d a => Sys2Proof.Machine.execPopc d a s
  | .sel d a b c => Sys2Proof.Machine.execSel d a b c s
  | .cmp d a b cc => Sys2Proof.Machine.execCmp d a b cc s
  | .addi d a imm => Sys2Proof.Machine.execAddi d a imm s
  | .andi d a imm => Sys2Proof.Machine.execAndi d a imm s
  | .ori d a imm => Sys2Proof.Machine.execOri d a imm s
  | .xori d a imm => Sys2Proof.Machine.execXori d a imm s
  | .shli d a sh => Sys2Proof.Machine.execShli d a sh s
  | .shri d a sh => Sys2Proof.Machine.execShri d a sh s
  | .srai d a sh => Sys2Proof.Machine.execSrai d a sh s
  | .cmpi d a cc imm => Sys2Proof.Machine.execCmpi d a cc imm s
  | .movi d imm => Sys2Proof.Machine.execMovi d imm s
  | .movh d imm k => Sys2Proof.Machine.execMovh d imm k s
  | .ext d a sg pos lm => Sys2Proof.Machine.execExt d a sg pos lm s
  | .ins d a pos lm => Sys2Proof.Machine.execIns d a pos lm s
  | .ld d a st size off => Sys2Proof.Machine.execLd d a st size off s
  | .st d a st size off => Sys2Proof.Machine.execSt d a st size off s
  | .amo d a b st size op => Sys2Proof.Machine.execAmo d a b st size op s
  | .ldAtom d a st size => Sys2Proof.Machine.execLdAtom d a st size s
  | .acas d a b st size => Sys2Proof.Machine.execAcas d a b st size s
  | .ared a b st size op => Sys2Proof.Machine.execAred a b st size op s
  | .mcst g a b st size op => Sys2Proof.Machine.execMcst g a b st size op s
  | .b off => Sys2Proof.Machine.execB off s
  | .jal off => Sys2Proof.Machine.execJal off s
  | .jr d a => Sys2Proof.Machine.execJr d a s
  | .loop a len => Sys2Proof.Machine.execLoop a len s
  | .beq a b off => Sys2Proof.Machine.execBeq a b off s
  | .bne a b off => Sys2Proof.Machine.execBne a b off s
  | .blt a b off => Sys2Proof.Machine.execBlt a b off s
  | .bge a b off => Sys2Proof.Machine.execBge a b off s
  | .bltn a b off => Sys2Proof.Machine.execBltn a b off s
  | .bgen a b off => Sys2Proof.Machine.execBgen a b off s
  | .nop => Sys2Proof.Machine.execNop s
  | .endSeq => Sys2Proof.Machine.execEndSeq s
  | .trap a => Sys2Proof.Machine.execTrap a s
  | .eret => Sys2Proof.Machine.execEret s
  | .bkpt => Sys2Proof.Machine.execBkpt s
  | .pause => Sys2Proof.Machine.execPause s
  | .fence mask => Sys2Proof.Machine.execFence mask s
  | .rds d spr => Sys2Proof.Machine.execRds d spr s
  | .wrs spr d => Sys2Proof.Machine.execWrs spr d s
  | .take mask => Sys2Proof.Machine.execTake mask s
  | .give mask => Sys2Proof.Machine.execGive mask s
  | .fwait d a b cc t => Sys2Proof.Machine.execFwait d a b cc t s
  | .fset a b => Sys2Proof.Machine.execFset a b s
  | .fadd d a b => Sys2Proof.Machine.execFadd d a b s
  | .fget d a => Sys2Proof.Machine.execFget d a s
  | .gset a b => Sys2Proof.Machine.execGset a b s
  | .binit d a b => Sys2Proof.Machine.execBinit d a b s
  | .barv d a b t => Sys2Proof.Machine.execBarv d a b t s
  | .bwait d a b t => Sys2Proof.Machine.execBwait d a b t s
  | .tpost d a w => Sys2Proof.Machine.execTpost d a w s
  | .tpostx a b c w => Sys2Proof.Machine.execTpostx a b c w s
  | .tstat d a => Sys2Proof.Machine.execTstat d a s
  | .frdef d a b => Sys2Proof.Machine.execFrdef d a b s
  | .frfree d a => Sys2Proof.Machine.execFrfree d a s
  | .larm d a => Sys2Proof.Machine.execLarm d a s
  | .lpatch d a b => Sys2Proof.Machine.execLpatch d a b s
  | .sseal d => Sys2Proof.Machine.execSseal d s
  | .sstat d a b => Sys2Proof.Machine.execSstat d a b s
  | .swait d a t => Sys2Proof.Machine.execSwait d a t s
  | .crule d a b => Sys2Proof.Machine.execCrule d a b s
  | .iwdef d a b => Sys2Proof.Machine.execIwdef d a b s
  | .vadd f sat => Sys2Proof.Machine.execVadd f sat s
  | .vsub f sat => Sys2Proof.Machine.execVsub f sat s
  | .vmul f sat => Sys2Proof.Machine.execVmul f sat s
  | .vfma f => Sys2Proof.Machine.execVfma f s
  | .vmin f => Sys2Proof.Machine.execVmin f s
  | .vmax f => Sys2Proof.Machine.execVmax f s
  | .vabs f => Sys2Proof.Machine.execVabs f s
  | .vneg f => Sys2Proof.Machine.execVneg f s
  | .vand f => Sys2Proof.Machine.execVand f s
  | .vor f => Sys2Proof.Machine.execVor f s
  | .vxor f => Sys2Proof.Machine.execVxor f s
  | .vshl f => Sys2Proof.Machine.execVshl f s
  | .vshr f => Sys2Proof.Machine.execVshr f s
  | .vsel f => Sys2Proof.Machine.execVsel f s
  | .vmov f => Sys2Proof.Machine.execVmov f s
  | .vcmp f cc => Sys2Proof.Machine.execVcmp f cc s
  | .vcvt f tyD sat => Sys2Proof.Machine.execVcvt f tyD sat s
  | .vwid f tyD sat => Sys2Proof.Machine.execVwid f tyD sat s
  | .vnar f tyD sat => Sys2Proof.Machine.execVnar f tyD sat s
  | .vsf f fn => Sys2Proof.Machine.execVsf f fn s
  | .vred f op => Sys2Proof.Machine.execVred f op s
  | .vbc f => Sys2Proof.Machine.execVbc f s
  | .viota f => Sys2Proof.Machine.execViota f s
  | .vperm f => Sys2Proof.Machine.execVperm f s
  | .vsetl f => Sys2Proof.Machine.execVsetl f s
  | .vpart f => Sys2Proof.Machine.execVpart f s
  | .mclr f => Sys2Proof.Machine.execMclr f s
  | .mupd f => Sys2Proof.Machine.execMupd f s
  | .mupdw f => Sys2Proof.Machine.execMupdw f s
  | .mmrg f => Sys2Proof.Machine.execMmrg f s
  | .mget f => Sys2Proof.Machine.execMget f s
  | .mnorm f => Sys2Proof.Machine.execMnorm f s
  | .mld f => Sys2Proof.Machine.execMld f s
  | .mst f => Sys2Proof.Machine.execMst f s
  | .azero a b => Sys2Proof.Machine.execAzero a b s
  | .fmtq a => Sys2Proof.Machine.execFmtq a s
  | .agld n a imm => Sys2Proof.Machine.execAgld n a imm s
  | .agst n a imm => Sys2Proof.Machine.execAgst n a imm s
  | .carm d a b => Sys2Proof.Machine.execCarm d a b s
  | .lda n e => Sys2Proof.Machine.execLda n e s
  | .ldb n b e => Sys2Proof.Machine.execLdb n b e s
  | .mma a b buf z k e => Sys2Proof.Machine.execMma a b buf z k e s
  | .drain a b agD agM ge mode ty sat lh e => Sys2Proof.Machine.execDrain a b agD agM ge mode ty sat lh e s
  | .nmv d e => Sys2Proof.Machine.execNmv d e s
  | .cpy agD agS e => Sys2Proof.Machine.execCpy agD agS e s
  | .xpose agD agS r e => Sys2Proof.Machine.execXpose agD agS r e s
  | .coll d e => Sys2Proof.Machine.execColl d e s
  | .ldv q n e => Sys2Proof.Machine.execLdv q n e s
  | .stv q n e => Sys2Proof.Machine.execStv q n e s
  | .vgath q n b ty e => Sys2Proof.Machine.execVgath q n b ty e s
  | .vscat q n b ty e => Sys2Proof.Machine.execVscat q n b ty e s
  | .chain d e => Sys2Proof.Machine.execChain d e s
  | .sequencerWake c q => Sys2Proof.Machine.execSequencerWake c q s
  | .waitTimeout c q => Sys2Proof.Machine.execWaitTimeout c q s
  | .bwaitTimeout c q => Sys2Proof.Machine.execBwaitTimeout c q s
  | .pauseEnd c q => Sys2Proof.Machine.execPauseEnd c q s
  | .engineQueueHead cmd => Sys2Proof.Machine.execEngineQueueHead cmd s
  | .aRingRowDelivery cmd => Sys2Proof.Machine.execARingRowDelivery cmd s
  | .ldaComplete cmd => Sys2Proof.Machine.execLdaComplete cmd s
  | .ldbComplete cmd => Sys2Proof.Machine.execLdbComplete cmd s
  | .mmaComplete cmd => Sys2Proof.Machine.execMmaComplete cmd s
  | .drainComplete cmd => Sys2Proof.Machine.execDrainComplete cmd s
  | .ldvComplete cmd => Sys2Proof.Machine.execLdvComplete cmd s
  | .stvComplete cmd => Sys2Proof.Machine.execStvComplete cmd s
  | .vgathComplete cmd => Sys2Proof.Machine.execVgathComplete cmd s
  | .vscatComplete cmd => Sys2Proof.Machine.execVscatComplete cmd s
  | .chainComplete cmd => Sys2Proof.Machine.execChainComplete cmd s
  | .cpyComplete cmd => Sys2Proof.Machine.execCpyComplete cmd s
  | .xposeComplete cmd => Sys2Proof.Machine.execXposeComplete cmd s
  | .nmvComplete cmd => Sys2Proof.Machine.execNmvComplete cmd s
  | .engineCommandFault cmd => Sys2Proof.Machine.execEngineCommandFault cmd s
  | .postSequencerTake => Sys2Proof.Machine.execPostSequencerTake s
  | .postRetry post => Sys2Proof.Machine.execPostRetry post s
  | .tpostWaitExpiry post => Sys2Proof.Machine.execTpostWaitExpiry post s
  | .ergRelease => Sys2Proof.Machine.execErgRelease s
  | .readyClassRaise stamp => Sys2Proof.Machine.execReadyClassRaise stamp s
  | .taskRetire stamp => Sys2Proof.Machine.execTaskRetire stamp s
  | .abortedCellFree stamp => Sys2Proof.Machine.execAbortedCellFree stamp s
  | .remotePostArrival p => Sys2Proof.Machine.execRemotePostArrival p s
  | .tpostxAnswer id v => Sys2Proof.Machine.execTpostxAnswer id v s
  | .tpostxNoAnswer id => Sys2Proof.Machine.execTpostxNoAnswer id s
  | .pageWalkComplete walk => Sys2Proof.Machine.execPageWalkComplete walk s
  | .peerReadRequest p => Sys2Proof.Machine.execPeerReadRequest p s
  | .peerReadResponse id ans => Sys2Proof.Machine.execPeerReadResponse id ans s
  | .remoteReadTimeout id => Sys2Proof.Machine.execRemoteReadTimeout id s
  | .caravanRecordArrival p => Sys2Proof.Machine.execCaravanRecordArrival p s
  | .sealSend ctx => Sys2Proof.Machine.execSealSend ctx s
  | .sealArrival p => Sys2Proof.Machine.execSealArrival p s
  | .boundaryRelease p => Sys2Proof.Machine.execBoundaryRelease p s
  | .boundaryApply ctx => Sys2Proof.Machine.execBoundaryApply ctx s
  | .boundaryResultReport p => Sys2Proof.Machine.execBoundaryResultReport p s
  | .boundaryRecordTimeout ctx step => Sys2Proof.Machine.execBoundaryRecordTimeout ctx step s
  | .inboundStallTimeout c q => Sys2Proof.Machine.execInboundStallTimeout c q s
  | .packetForward p => Sys2Proof.Machine.execPacketForward p s
  | .packetResend seqNo => Sys2Proof.Machine.execPacketResend seqNo s
  | .linkStateChange link up => Sys2Proof.Machine.execLinkStateChange link up s
  | .podBarrierArrival p => Sys2Proof.Machine.execPodBarrierArrival p s
  | .podBarrierPhase p => Sys2Proof.Machine.execPodBarrierPhase p s
  | .podBarvTimeout c q => Sys2Proof.Machine.execPodBarvTimeout c q s
  | .proxyAbsenceToken p => Sys2Proof.Machine.execProxyAbsenceToken p s
  | .absenceTokenWithdrawal p => Sys2Proof.Machine.execAbsenceTokenWithdrawal p s
  | .armedRunStart die entry => Sys2Proof.Machine.execArmedRunStart die entry s
  | .collSend run => Sys2Proof.Machine.execCollSend run s
  | .collRecv run => Sys2Proof.Machine.execCollRecv run s
  | .collRrs run => Sys2Proof.Machine.execCollRrs run s
  | .collCopy run => Sys2Proof.Machine.execCollCopy run s
  | .collWait run => Sys2Proof.Machine.execCollWait run s
  | .collSignal run => Sys2Proof.Machine.execCollSignal run s
  | .collLoop run => Sys2Proof.Machine.execCollLoop run s
  | .collEnd run => Sys2Proof.Machine.execCollEnd run s
  | .collDataArrival p => Sys2Proof.Machine.execCollDataArrival p s
  | .collCreditArrival p => Sys2Proof.Machine.execCollCreditArrival p s
  | .collAckArrival p => Sys2Proof.Machine.execCollAckArrival p s
  | .collAbortArrival p => Sys2Proof.Machine.execCollAbortArrival p s
  | .collRunTimeout run => Sys2Proof.Machine.execCollRunTimeout run s
  | .taskWatchdogExpiry stamp => Sys2Proof.Machine.execTaskWatchdogExpiry stamp s
  | .ladderLevelOverrun job => Sys2Proof.Machine.execLadderLevelOverrun job s
  | .cairnHeartbeatMissing n => Sys2Proof.Machine.execCairnHeartbeatMissing n s
  | .siroccoHeartbeatMissing => Sys2Proof.Machine.execSiroccoHeartbeatMissing s
  | .functionLevelReset => Sys2Proof.Machine.execFunctionLevelReset s
  | .powerUp record => Sys2Proof.Machine.execPowerUp record s
  | .parityError site => Sys2Proof.Machine.execParityError site s
  | .patrolScrub granule => Sys2Proof.Machine.execPatrolScrub granule s
  | .powerCapClockStep => Sys2Proof.Machine.execPowerCapClockStep s
  | .preemptionRequest stamp => Sys2Proof.Machine.execPreemptionRequest stamp s
  | .preemptionSave stamp => Sys2Proof.Machine.execPreemptionSave stamp s
  | .preemptionAbandon stamp => Sys2Proof.Machine.execPreemptionAbandon stamp s
  | .saveLost stamp => Sys2Proof.Machine.execSaveLost stamp s
  | .shootdownReport n => Sys2Proof.Machine.execShootdownReport n s
  | .shootdownTimeout => Sys2Proof.Machine.execShootdownTimeout s
  | .launch q => Sys2Proof.Machine.execLaunch q s
  | .framedef q => Sys2Proof.Machine.execFramedef q s
  | .framefree q => Sys2Proof.Machine.execFramefree q s
  | .ctxcfg q => Sys2Proof.Machine.execCtxcfg q s
  | .shootdown q => Sys2Proof.Machine.execShootdown q s
  | .keyinst q => Sys2Proof.Machine.execKeyinst q s
  | .ctxout q => Sys2Proof.Machine.execCtxout q s
  | .ctxin q => Sys2Proof.Machine.execCtxin q s
  | .preempt q => Sys2Proof.Machine.execPreempt q s
  | .hostNop q => Sys2Proof.Machine.execHostNop q s
  | .abort q => Sys2Proof.Machine.execAbort q s
  | .podjoin q => Sys2Proof.Machine.execPodjoin q s
  | .podremove q => Sys2Proof.Machine.execPodremove q s
  | .podleave q => Sys2Proof.Machine.execPodleave q s
  | .doorbell q v => Sys2Proof.Machine.execDoorbell q v s
  | .trigger q v => Sys2Proof.Machine.execTrigger q v s
  | .qctl q v => Sys2Proof.Machine.execQctl q v s
  | .restart v => Sys2Proof.Machine.execRestart v s
  | .pcap v => Sys2Proof.Machine.execPcap v s
  | .eccCounterRead id => Sys2Proof.Machine.execEccCounterRead id s
  | .lsend core w => Sys2Proof.Machine.execLsend core w s
  | .lrecv core => Sys2Proof.Machine.execLrecv core s
  | .registerWrite off bytes v => Sys2Proof.Machine.execRegisterWrite off bytes v s
  | .verifyComplete => Sys2Proof.Machine.execVerifyComplete s
  | .activateFirmware => Sys2Proof.Machine.execActivateFirmware s
  | .handoverHeartbeatTimeout => Sys2Proof.Machine.execHandoverHeartbeatTimeout s
  | .getVersion req => Sys2Proof.Machine.execGetVersion req s
  | .getCapabilities req => Sys2Proof.Machine.execGetCapabilities req s
  | .negotiateAlgorithms req => Sys2Proof.Machine.execNegotiateAlgorithms req s
  | .getDigests req => Sys2Proof.Machine.execGetDigests req s
  | .getCertificate req => Sys2Proof.Machine.execGetCertificate req s
  | .challenge req => Sys2Proof.Machine.execChallenge req s
  | .getMeasurements index => Sys2Proof.Machine.execGetMeasurements index s
  | .sandglassRead first count => Sys2Proof.Machine.execSandglassRead first count s
  | .accessPerformed id => Sys2Proof.Machine.execAccessPerformed id s
  | .rowUpdate cmd => Sys2Proof.Machine.execRowUpdate cmd s
  | .entryFilled cmd => Sys2Proof.Machine.execEntryFilled cmd s
  | .illegalEncoding detail eval => Sys2Proof.Machine.execIllegalEncoding detail eval s
  | .imageStaged component image => Sys2Proof.Machine.execImageStaged component image s
  | .handOverComplete => Sys2Proof.Machine.execHandOverComplete s

end Sys2Proof.Machine
end

