-- ==== Sys2Proof/WellFormed.lean ====
section
/-! DEFINITION. Which instructions have an encoding (R304 to R311): the limits that the operand types do not already carry. -/

namespace Sys2Proof

/-- `pos + len > 64` is a reserved code of `EXT` and `INS` (R305); `lm` is `len - 1`. -/
def fieldFits (pos lm : Fin 64) : Bool := pos.val + lm.val < 64

/-- The sizes an operation of `AMO` allows (R306): 4 or 8 bytes, operations 0 to 8. -/
def amoAllowed (op : AtOp) (size : Fin 4) : Bool :=
  match op with
  | .fadd | .fmin | .fmax => false
  | _ => 2 ≤ size.val

/-- The sizes an operation of `ARED` allows (R306): operations 1 to 11, f32 operations on 4 bytes only. -/
def aredAllowed (op : AtOp) (size : Fin 4) : Bool :=
  match op with
  | .swap => false
  | .fadd | .fmin | .fmax => size.val == 2
  | _ => 2 ≤ size.val

/-- The sizes an operation of `MCST` allows (R306): the plain store has every size. -/
def mcstAllowed (op : AtOp) (size : Fin 4) : Bool :=
  match op with
  | .swap => true
  | .fadd | .fmin | .fmax => size.val == 2
  | _ => 2 ≤ size.val

/-- `.sat` of `VADD`, `VSUB` and `VMUL` is a reserved bit on types 8 to 15 (R422). -/
def satFits (f : VFields) (sat : Bool) : Bool := !sat || f.ty.val < 8

/-- The fields of `DRAIN` that its mode leaves unused must be 0 (R355). -/
def drainFits (mode : DrainMode) (agM : Fin 8) (ge : Reg) : Bool :=
  match mode with
  | .plain => agM.val == 0 && ge.val == 0
  | .mom => ge.val == 0
  | .norm => true

/-- The instruction has an encoding. Events have none. -/
def Instr.wf : Instr → Bool
  | .ext _ _ _ pos lm => fieldFits pos lm
  | .ins _ _ pos lm => fieldFits pos lm
  | .st _ _ _ _ _ => true
  | .amo _ _ _ _ size op => amoAllowed op size
  | .acas _ _ _ _ size => 2 ≤ size.val
  | .ared _ _ _ size op => aredAllowed op size
  | .mcst _ _ _ _ size op => mcstAllowed op size
  | .loop _ len => len != 0
  | .vadd f sat => satFits f sat
  | .vsub f sat => satFits f sat
  | .vmul f sat => satFits f sat
  | .drain _ _ _ agM ge mode _ _ _ _ => drainFits mode agM ge
  | .add _ _ _ => true
  | .sub _ _ _ => true
  | .mul _ _ _ => true
  | .and _ _ _ => true
  | .or _ _ _ => true
  | .xor _ _ _ => true
  | .shl _ _ _ => true
  | .shr _ _ _ => true
  | .sra _ _ _ => true
  | .mulh _ _ _ _ => true
  | .div _ _ _ _ => true
  | .rem _ _ _ _ => true
  | .min _ _ _ _ => true
  | .max _ _ _ _ => true
  | .clz _ _ => true
  | .popc _ _ => true
  | .sel _ _ _ _ => true
  | .cmp _ _ _ _ => true
  | .addi _ _ _ => true
  | .andi _ _ _ => true
  | .ori _ _ _ => true
  | .xori _ _ _ => true
  | .shli _ _ _ => true
  | .shri _ _ _ => true
  | .srai _ _ _ => true
  | .cmpi _ _ _ _ => true
  | .movi _ _ => true
  | .movh _ _ _ => true
  | .ld _ _ _ _ _ => true
  | .ldAtom _ _ _ _ => true
  | .b _ => true
  | .jal _ => true
  | .jr _ _ => true
  | .beq _ _ _ => true
  | .bne _ _ _ => true
  | .blt _ _ _ => true
  | .bge _ _ _ => true
  | .bltn _ _ _ => true
  | .bgen _ _ _ => true
  | .nop => true
  | .endSeq => true
  | .eret => true
  | .bkpt => true
  | .pause => true
  | .trap _ => true
  | .fence _ => true
  | .take _ => true
  | .give _ => true
  | .rds _ _ => true
  | .wrs _ _ => true
  | .fwait _ _ _ _ _ => true
  | .fset _ _ => true
  | .gset _ _ => true
  | .fadd _ _ _ => true
  | .fget _ _ => true
  | .binit _ _ _ => true
  | .barv _ _ _ _ => true
  | .bwait _ _ _ _ => true
  | .tpost _ _ _ => true
  | .tpostx _ _ _ _ => true
  | .tstat _ _ => true
  | .frfree _ _ => true
  | .larm _ _ => true
  | .frdef _ _ _ => true
  | .lpatch _ _ _ => true
  | .sseal _ => true
  | .sstat _ _ _ => true
  | .swait _ _ _ => true
  | .crule _ _ _ => true
  | .iwdef _ _ _ => true
  | .vfma _ => true
  | .vmin _ => true
  | .vmax _ => true
  | .vabs _ => true
  | .vneg _ => true
  | .vand _ => true
  | .vor _ => true
  | .vxor _ => true
  | .vshl _ => true
  | .vshr _ => true
  | .vsel _ => true
  | .vmov _ => true
  | .vbc _ => true
  | .viota _ => true
  | .vperm _ => true
  | .vsetl _ => true
  | .vpart _ => true
  | .mclr _ => true
  | .mupd _ => true
  | .mupdw _ => true
  | .mmrg _ => true
  | .mget _ => true
  | .mnorm _ => true
  | .mld _ => true
  | .mst _ => true
  | .vcmp _ _ => true
  | .vsf _ _ => true
  | .vred _ _ => true
  | .vcvt _ _ _ => true
  | .vwid _ _ _ => true
  | .vnar _ _ _ => true
  | .azero _ _ => true
  | .fmtq _ => true
  | .agld _ _ _ => true
  | .agst _ _ _ => true
  | .carm _ _ _ => true
  | .lda _ _ => true
  | .ldb _ _ _ => true
  | .mma _ _ _ _ _ _ => true
  | .nmv _ _ => true
  | .coll _ _ => true
  | .chain _ _ => true
  | .cpy _ _ _ => true
  | .xpose _ _ _ _ => true
  | .ldv _ _ _ => true
  | .stv _ _ _ => true
  | .vgath _ _ _ _ _ => true
  | .vscat _ _ _ _ _ => true
  | .sequencerWake _ _ => false
  | .waitTimeout _ _ => false
  | .bwaitTimeout _ _ => false
  | .pauseEnd _ _ => false
  | .engineQueueHead _ => false
  | .aRingRowDelivery _ => false
  | .ldaComplete _ => false
  | .ldbComplete _ => false
  | .mmaComplete _ => false
  | .drainComplete _ => false
  | .ldvComplete _ => false
  | .stvComplete _ => false
  | .vgathComplete _ => false
  | .vscatComplete _ => false
  | .chainComplete _ => false
  | .cpyComplete _ => false
  | .xposeComplete _ => false
  | .nmvComplete _ => false
  | .engineCommandFault _ => false
  | .postSequencerTake => false
  | .postRetry _ => false
  | .tpostWaitExpiry _ => false
  | .ergRelease => false
  | .readyClassRaise _ => false
  | .taskRetire _ => false
  | .abortedCellFree _ => false
  | .remotePostArrival _ => false
  | .tpostxAnswer _ _ => false
  | .tpostxNoAnswer _ => false
  | .pageWalkComplete _ => false
  | .peerReadRequest _ => false
  | .peerReadResponse _ _ => false
  | .remoteReadTimeout _ => false
  | .caravanRecordArrival _ => false
  | .sealSend _ => false
  | .sealArrival _ => false
  | .boundaryRelease _ => false
  | .boundaryApply _ => false
  | .boundaryResultReport _ => false
  | .boundaryRecordTimeout _ _ => false
  | .inboundStallTimeout _ _ => false
  | .packetForward _ => false
  | .packetResend _ => false
  | .linkStateChange _ _ => false
  | .podBarrierArrival _ => false
  | .podBarrierPhase _ => false
  | .podBarvTimeout _ _ => false
  | .proxyAbsenceToken _ => false
  | .absenceTokenWithdrawal _ => false
  | .armedRunStart _ _ => false
  | .collSend _ => false
  | .collRecv _ => false
  | .collRrs _ => false
  | .collCopy _ => false
  | .collWait _ => false
  | .collSignal _ => false
  | .collLoop _ => false
  | .collEnd _ => false
  | .collDataArrival _ => false
  | .collCreditArrival _ => false
  | .collAckArrival _ => false
  | .collAbortArrival _ => false
  | .collRunTimeout _ => false
  | .taskWatchdogExpiry _ => false
  | .ladderLevelOverrun _ => false
  | .cairnHeartbeatMissing _ => false
  | .siroccoHeartbeatMissing => false
  | .functionLevelReset => false
  | .powerUp _ => false
  | .parityError _ => false
  | .patrolScrub _ => false
  | .powerCapClockStep => false
  | .preemptionRequest _ => false
  | .preemptionSave _ => false
  | .preemptionAbandon _ => false
  | .saveLost _ => false
  | .shootdownReport _ => false
  | .shootdownTimeout => false
  | .launch _ => false
  | .framedef _ => false
  | .framefree _ => false
  | .ctxcfg _ => false
  | .shootdown _ => false
  | .keyinst _ => false
  | .ctxout _ => false
  | .ctxin _ => false
  | .preempt _ => false
  | .hostNop _ => false
  | .abort _ => false
  | .podjoin _ => false
  | .podremove _ => false
  | .podleave _ => false
  | .doorbell _ _ => false
  | .trigger _ _ => false
  | .qctl _ _ => false
  | .restart _ => false
  | .pcap _ => false
  | .eccCounterRead _ => false
  | .lsend _ _ => false
  | .lrecv _ => false
  | .registerWrite _ _ _ => false
  | .verifyComplete => false
  | .activateFirmware => false
  | .handoverHeartbeatTimeout => false
  | .getVersion _ => false
  | .getCapabilities _ => false
  | .negotiateAlgorithms _ => false
  | .getDigests _ => false
  | .getCertificate _ => false
  | .challenge _ => false
  | .getMeasurements _ => false
  | .sandglassRead _ _ => false
  | .accessPerformed _ => false
  | .rowUpdate _ => false
  | .entryFilled _ => false
  | .illegalEncoding _ _ => false
  | .imageStaged _ _ => false
  | .handOverComplete => false

end Sys2Proof
end

