-- ==== Sys2Proof/Decode.lean ====
section
/-! DEFINITION. The decoder, total on any two words and rejecting by the detail of R312, and the encoder, both from the encoding
tables R297 to R311. A word is a natural number below 2^32; the decoder reads it modulo the fields. -/

namespace Sys2Proof

/-- What a word decodes to: an instruction, or `ILLEGAL` with a detail of R312. -/
inductive Decoded where
  | instr (i : Instr)
  | illegal (detail : BitVec 8)
  deriving DecidableEq, Repr

/-- The `n`-bit field of `w` that starts at bit `lo`. -/
def fld (w lo n : Nat) : Nat := w / 2 ^ lo % 2 ^ n

/-- A reserved field: detail 0x03 when it is not zero (R312). -/
def zeroOr (x : Nat) (k : Decoded) : Decoded := if x = 0 then k else .illegal 3

/-- A code that must be assigned: detail 0x04 when it is not (R312). -/
def codeOr {α : Type} (x : Option α) (k : α → Decoded) : Decoded :=
  match x with
  | some v => k v
  | none => .illegal 4

/-- A reserved code, judged by a test (R312). -/
def allowedOr (ok : Bool) (k : Decoded) : Decoded := if ok then k else .illegal 4

def reg (w lo : Nat) : Reg := Fin.ofNat 32 (w / 2 ^ lo)
def fin2 (w lo : Nat) : Fin 2 := Fin.ofNat 2 (w / 2 ^ lo)
def fin4 (w lo : Nat) : Fin 4 := Fin.ofNat 4 (w / 2 ^ lo)
def fin8 (w lo : Nat) : Fin 8 := Fin.ofNat 8 (w / 2 ^ lo)
def fin16 (w lo : Nat) : Fin 16 := Fin.ofNat 16 (w / 2 ^ lo)
def fin64 (w lo : Nat) : Fin 64 := Fin.ofNat 64 (w / 2 ^ lo)
def bit (w lo : Nat) : Bool := w / 2 ^ lo % 2 == 1

/-- Condition codes (R300). -/
def condOf : Nat → Option Cond
  | 0 => some .eq | 1 => some .ne | 2 => some .lt | 3 => some .ge | 4 => some .ltn | 5 => some .gen
  | _ => none

def condCode : Cond → Nat
  | .eq => 0 | .ne => 1 | .lt => 2 | .ge => 3 | .ltn => 4 | .gen => 5

/-- `LD` sizes (R306). -/
def ldSizeOf : Nat → Option LdSize
  | 0 => some .n8 | 1 => some .n16 | 2 => some .n32 | 3 => some .b64
  | 4 => some .i8 | 5 => some .i16 | 6 => some .i32
  | _ => none

def ldSizeCode : LdSize → Nat
  | .n8 => 0 | .n16 => 1 | .n32 => 2 | .b64 => 3 | .i8 => 4 | .i16 => 5 | .i32 => 6

/-- Atomic operation codes 0 to 11 (R306). -/
def atOpOf : Nat → Option AtOp
  | 0 => some .swap | 1 => some .add | 2 => some .and | 3 => some .or | 4 => some .xor | 5 => some .min
  | 6 => some .max | 7 => some .minn | 8 => some .maxn | 9 => some .fadd | 10 => some .fmin | 11 => some .fmax
  | _ => none

def atOpCode : AtOp → Nat
  | .swap => 0 | .add => 1 | .and => 2 | .or => 3 | .xor => 4 | .min => 5 | .max => 6 | .minn => 7 | .maxn => 8
  | .fadd => 9 | .fmin => 10 | .fmax => 11

/-- `VSF` function codes (R310); 9 to 127 are unassigned. -/
def sfFnOf : Nat → Option SfFn
  | 0 => some .exp2 | 1 => some .log2 | 2 => some .rcp | 3 => some .sqrt | 4 => some .rsqrt | 5 => some .sin
  | 6 => some .cos | 7 => some .tanh | 8 => some .sigm
  | _ => none

def sfFnCode : SfFn → Nat
  | .exp2 => 0 | .log2 => 1 | .rcp => 2 | .sqrt => 3 | .rsqrt => 4 | .sin => 5 | .cos => 6 | .tanh => 7 | .sigm => 8

/-- `VRED` operation codes (R310); 6 to 15 are unassigned. -/
def redOpOf : Nat → Option RedOp
  | 0 => some .add | 1 => some .min | 2 => some .max | 3 => some .and | 4 => some .or | 5 => some .xor
  | _ => none

def redOpCode : RedOp → Nat
  | .add => 0 | .min => 1 | .max => 2 | .and => 3 | .or => 4 | .xor => 5

/-- `DRAIN` modes (R355); 3 is reserved. -/
def drainModeOf : Nat → Option DrainMode
  | 0 => some .plain | 1 => some .mom | 2 => some .norm
  | _ => none

def drainModeCode : DrainMode → Nat
  | .plain => 0 | .mom => 1 | .norm => 2

/-- Special-register indices (R301). -/
def sprOf (x : Nat) : Option Spr :=
  match x with
  | 0x000 => some .seq | 0x001 => some .cell | 0x002 => some .cluster | 0x003 => some .rank | 0x004 => some .ctx
  | 0x005 => some .ticket
  | 0x008 => some (.arg 0) | 0x009 => some (.arg 1) | 0x00A => some (.arg 2) | 0x00B => some (.arg 3)
  | 0x00C => some (.arg 4) | 0x00D => some (.arg 5)
  | 0x010 => some (.fbase 0) | 0x011 => some (.fbase 1) | 0x012 => some (.fbase 2) | 0x013 => some (.fbase 3)
  | 0x014 => some (.fbase 4) | 0x015 => some (.fbase 5) | 0x016 => some (.fbase 6) | 0x017 => some (.fbase 7)
  | 0x020 => some .fpctl | 0x021 => some .fpflg | 0x022 => some .vl | 0x023 => some .accp
  | 0x030 => some .step | 0x031 => some .stepst
  | 0x040 => some .cycle | 0x041 => some .wintmo
  | 0x050 => some .cause | 0x051 => some .epc | 0x052 => some .eval | 0x053 => some .eprog | 0x054 => some .tvec
  | 0x055 => some .esave
  | _ => none

def sprIndex : Spr → Nat
  | .seq => 0x000 | .cell => 0x001 | .cluster => 0x002 | .rank => 0x003 | .ctx => 0x004 | .ticket => 0x005
  | .arg i => 0x008 + i.val | .fbase i => 0x010 + i.val
  | .fpctl => 0x020 | .fpflg => 0x021 | .vl => 0x022 | .accp => 0x023 | .step => 0x030 | .stepst => 0x031
  | .cycle => 0x040 | .wintmo => 0x041
  | .cause => 0x050 | .epc => 0x051 | .eval => 0x052 | .eprog => 0x053 | .tvec => 0x054 | .esave => 0x055

/-- Majors 0x30 to 0x3C are two words long (R295). -/
def isLong (w : Nat) : Bool := decide (0x30 ≤ fld w 26 6) && decide (fld w 26 6 ≤ 0x3C)

/-! ### The groups -/

/-- ALU group (R304). -/
def decodeAlu (w : Nat) : Decoded :=
  let d := reg w 21; let a := reg w 16; let b := reg w 11; let c := fld w 6 5
  match fld w 0 6 with
  | 0x00 => zeroOr c (.instr (.add d a b))
  | 0x01 => zeroOr c (.instr (.sub d a b))
  | 0x02 => zeroOr c (.instr (.mul d a b))
  | 0x03 => zeroOr (fld w 7 4) (.instr (.mulh d a b (bit w 6)))
  | 0x04 => zeroOr (fld w 7 4) (.instr (.div d a b (bit w 6)))
  | 0x05 => zeroOr (fld w 7 4) (.instr (.rem d a b (bit w 6)))
  | 0x06 => zeroOr c (.instr (.and d a b))
  | 0x07 => zeroOr c (.instr (.or d a b))
  | 0x08 => zeroOr c (.instr (.xor d a b))
  | 0x09 => zeroOr c (.instr (.shl d a b))
  | 0x0A => zeroOr c (.instr (.shr d a b))
  | 0x0B => zeroOr c (.instr (.sra d a b))
  | 0x0C => zeroOr (fld w 7 4) (.instr (.min d a b (bit w 6)))
  | 0x0D => zeroOr (fld w 7 4) (.instr (.max d a b (bit w 6)))
  | 0x0E => zeroOr (fld w 6 10) (.instr (.clz d a))
  | 0x0F => zeroOr (fld w 6 10) (.instr (.popc d a))
  | 0x10 => .instr (.sel d a b (reg w 6))
  | 0x11 => zeroOr (fld w 9 2) (codeOr (condOf (fld w 6 3)) fun cc => .instr (.cmp d a b cc))
  | _ => .illegal 2

/-- `LD` (R306, R379). -/
def decodeLd (w : Nat) : Decoded :=
  codeOr (ldSizeOf (fld w 9 3)) fun z => .instr (.ld (reg w 21) (reg w 16) (fin16 w 12) z (BitVec.ofNat 9 w))

/-- `ST` (R306, R411). -/
def decodeSt (w : Nat) : Decoded :=
  allowedOr (fld w 11 1 == 0) (.instr (.st (reg w 21) (reg w 16) (fin16 w 12) (fin4 w 9) (BitVec.ofNat 9 w)))

/-- The M-A majors (R306, R326, R396). A size code of 4 to 7 is reserved. -/
def decodeAmo (w : Nat) : Decoded :=
  let d := reg w 21; let a := reg w 16; let st := fin16 w 12; let z := fin4 w 9
  if fld w 0 4 = 15 then
    zeroOr (fld w 4 5) (allowedOr (fld w 11 1 == 0) (.instr (.ldAtom d a st z)))
  else
    codeOr (atOpOf (fld w 0 4)) fun op =>
      allowedOr (fld w 11 1 == 0 && amoAllowed op z) (.instr (.amo d a (reg w 4) st z op))

def decodeAcas (w : Nat) : Decoded :=
  allowedOr (fld w 0 4 == 0 && fld w 11 1 == 0 && decide (2 ≤ fld w 9 2))
    (.instr (.acas (reg w 21) (reg w 16) (reg w 4) (fin16 w 12) (fin4 w 9)))

def decodeAred (w : Nat) : Decoded :=
  zeroOr (fld w 21 5) (codeOr (atOpOf (fld w 0 4)) fun op =>
    allowedOr (fld w 11 1 == 0 && aredAllowed op (fin4 w 9))
      (.instr (.ared (reg w 16) (reg w 4) (fin16 w 12) (fin4 w 9) op)))

def decodeMcst (w : Nat) : Decoded :=
  codeOr (atOpOf (fld w 0 4)) fun op =>
    allowedOr (fld w 11 1 == 0 && mcstAllowed op (fin4 w 9))
      (.instr (.mcst (reg w 21) (reg w 16) (reg w 4) (fin16 w 12) (fin4 w 9) op))

/-- SYS group (R308). -/
def decodeSys (w : Nat) : Decoded :=
  match fld w 0 6 with
  | 0x00 => zeroOr (fld w 6 20) (.instr .nop)
  | 0x01 => zeroOr (fld w 6 20) (.instr .endSeq)
  | 0x02 => zeroOr (fld w 21 5 + fld w 6 10) (.instr (.trap (reg w 16)))
  | 0x03 => zeroOr (fld w 6 20) (.instr .eret)
  | 0x04 => zeroOr (fld w 6 20) (.instr .bkpt)
  | 0x05 => zeroOr (fld w 6 20) (.instr .pause)
  | 0x06 => zeroOr (fld w 22 4) (.instr (.fence (BitVec.ofNat 16 (w / 2 ^ 6))))
  | 0x07 => zeroOr (fld w 6 5) (codeOr (sprOf (fld w 11 10)) fun x => .instr (.rds (reg w 21) x))
  | 0x08 => zeroOr (fld w 6 5) (codeOr (sprOf (fld w 11 10)) fun x => .instr (.wrs x (reg w 21)))
  | 0x09 => zeroOr (fld w 9 17) (.instr (.take (BitVec.ofNat 3 (w / 2 ^ 6))))
  | 0x0A => zeroOr (fld w 9 17) (.instr (.give (BitVec.ofNat 3 (w / 2 ^ 6))))
  | _ => .illegal 2

/-- Flag group (R309). -/
def decodeFlag (w : Nat) : Decoded :=
  let d := reg w 21; let a := reg w 16; let b := reg w 11
  match fld w 0 6 with
  | 0x00 => zeroOr (fld w 10 1) (codeOr (condOf (fld w 7 3)) fun cc => .instr (.fwait d a b cc (bit w 6)))
  | 0x01 => zeroOr (fld w 21 5 + fld w 6 5) (.instr (.fset a b))
  | 0x02 => zeroOr (fld w 6 5) (.instr (.fadd d a b))
  | 0x03 => zeroOr (fld w 6 10) (.instr (.fget d a))
  | 0x04 => zeroOr (fld w 21 5 + fld w 6 5) (.instr (.gset a b))
  | _ => .illegal 2

/-- Barrier group (R309, R337). -/
def decodeBar (w : Nat) : Decoded :=
  let d := reg w 21; let a := reg w 16; let b := reg w 11
  match fld w 0 6 with
  | 0x00 => zeroOr (fld w 6 5) (.instr (.binit d a b))
  | 0x01 => zeroOr (fld w 7 4) (.instr (.barv d a b (bit w 6)))
  | 0x02 => zeroOr (fld w 7 4) (.instr (.bwait d a b (bit w 6)))
  | _ => .illegal 2

/-- Task group (R309, R416). -/
def decodeTask (w : Nat) : Decoded :=
  let d := reg w 21; let a := reg w 16; let b := reg w 11
  match fld w 0 6 with
  | 0x00 => zeroOr (fld w 7 9) (.instr (.tpost d a (bit w 6)))
  | 0x01 => zeroOr (fld w 22 4) (.instr (.tpostx a b (reg w 6) (bit w 21)))
  | 0x02 => zeroOr (fld w 6 10) (.instr (.tstat d a))
  | 0x03 => zeroOr (fld w 6 5) (.instr (.frdef d a b))
  | 0x04 => zeroOr (fld w 6 10) (.instr (.frfree d a))
  | 0x05 => zeroOr (fld w 6 10) (.instr (.larm d a))
  | 0x06 => zeroOr (fld w 6 5) (.instr (.lpatch d a b))
  | _ => .illegal 2

/-- Step group (R235). -/
def decodeStep (w : Nat) : Decoded :=
  let d := reg w 21; let a := reg w 16; let b := reg w 11
  match fld w 0 6 with
  | 0x00 => zeroOr (fld w 6 15) (.instr (.sseal d))
  | 0x01 => zeroOr (fld w 6 5) (.instr (.sstat d a b))
  | 0x02 => zeroOr (fld w 7 9) (.instr (.swait d a (bit w 6)))
  | 0x03 => zeroOr (fld w 6 5) (.instr (.crule d a b))
  | 0x04 => zeroOr (fld w 6 5) (.instr (.iwdef d a b))
  | _ => .illegal 2

/-- The operand fields of the V format (R297). -/
def vFields (w : Nat) : VFields := ⟨reg w 21, reg w 16, reg w 11, fin16 w 7⟩

/-- `.sat` of `VADD`, `VSUB` and `VMUL`: bit 5 is reserved on types 8 to 15 (R422). -/
def satOr (w : Nat) (k : Decoded) : Decoded :=
  zeroOr (fld w 6 1 + fld w 4 1 + (if satFits (vFields w) (bit w 5) then 0 else 1)) k

/-- Major 0x28 (R310, R422). -/
def decodeVarith (w : Nat) : Decoded :=
  let f := vFields w
  match fld w 0 4 with
  | 0x0 => satOr w (.instr (.vadd f (bit w 5)))
  | 0x1 => satOr w (.instr (.vsub f (bit w 5)))
  | 0x2 => satOr w (.instr (.vmul f (bit w 5)))
  | 0x3 => zeroOr (fld w 4 3) (.instr (.vfma f))
  | 0x4 => zeroOr (fld w 4 3) (.instr (.vmin f))
  | 0x5 => zeroOr (fld w 4 3) (.instr (.vmax f))
  | 0x6 => zeroOr (fld w 4 3) (.instr (.vabs f))
  | 0x7 => zeroOr (fld w 4 3) (.instr (.vneg f))
  | 0x8 => zeroOr (fld w 4 3) (.instr (.vand f))
  | 0x9 => zeroOr (fld w 4 3) (.instr (.vor f))
  | 0xA => zeroOr (fld w 4 3) (.instr (.vxor f))
  | 0xB => zeroOr (fld w 4 3) (.instr (.vshl f))
  | 0xC => zeroOr (fld w 4 3) (.instr (.vshr f))
  | 0xD => zeroOr (fld w 4 3) (.instr (.vsel f))
  | 0xE => zeroOr (fld w 4 3) (.instr (.vmov f))
  | _ => .illegal 2

/-- Major 0x29 (R425). -/
def decodeVcmp (w : Nat) : Decoded :=
  zeroOr (fld w 3 4) (codeOr (condOf (fld w 0 3)) fun cc => .instr (.vcmp (vFields w) cc))

/-- Major 0x2A (R426). -/
def decodeVconv (w : Nat) : Decoded :=
  match fld w 0 2 with
  | 0 => .instr (.vcvt (vFields w) (fin16 w 2) (bit w 6))
  | 1 => .instr (.vwid (vFields w) (fin16 w 2) (bit w 6))
  | 2 => .instr (.vnar (vFields w) (fin16 w 2) (bit w 6))
  | _ => .illegal 2

/-- Major 0x2B (R430). -/
def decodeVsf (w : Nat) : Decoded :=
  match sfFnOf (fld w 0 7) with
  | some fn => .instr (.vsf (vFields w) fn)
  | none => .illegal 2

/-- Major 0x2C (R423). -/
def decodeVperm (w : Nat) : Decoded :=
  let f := vFields w
  match fld w 0 3 with
  | 0 =>
    match redOpOf (fld w 3 4) with
    | some op => .instr (.vred f op)
    | none => .illegal 2
  | 1 => zeroOr (fld w 3 4) (.instr (.vbc f))
  | 2 => zeroOr (fld w 3 4) (.instr (.viota f))
  | 3 => zeroOr (fld w 3 4) (.instr (.vperm f))
  | 4 => zeroOr (fld w 3 4) (.instr (.vsetl f))
  | _ => .illegal 2

/-- Major 0x2D (R429). -/
def decodeVpart (w : Nat) : Decoded := if fld w 0 7 = 0 then .instr (.vpart (vFields w)) else .illegal 2

/-- Major 0x2E (R181). -/
def decodeMom (w : Nat) : Decoded :=
  let f := vFields w
  match fld w 0 7 with
  | 0 => .instr (.mclr f)
  | 1 => .instr (.mupd f)
  | 2 => .instr (.mupdw f)
  | 3 => .instr (.mmrg f)
  | 4 => .instr (.mget f)
  | 5 => .instr (.mnorm f)
  | 6 => .instr (.mld f)
  | 7 => .instr (.mst f)
  | _ => .illegal 2

/-- Short tile group (R311). -/
def decodeTile (w : Nat) : Decoded :=
  match fld w 0 6 with
  | 0 => zeroOr (fld w 21 5 + fld w 6 5) (.instr (.azero (reg w 16) (reg w 11)))
  | 1 => zeroOr (fld w 21 5 + fld w 6 10) (.instr (.fmtq (reg w 16)))
  | 2 => zeroOr (fld w 24 2) (.instr (.agld (fin8 w 21) (reg w 16) (BitVec.ofNat 10 (w / 2 ^ 6))))
  | 3 => zeroOr (fld w 24 2) (.instr (.agst (fin8 w 21) (reg w 16) (BitVec.ofNat 10 (w / 2 ^ 6))))
  | 4 => zeroOr (fld w 6 5) (.instr (.carm (reg w 21) (reg w 16) (reg w 11)))
  | _ => .illegal 2

/-- The engine word without OPX (R298). -/
def engWord (e : Nat) : EngWord :=
  ⟨BitVec.ofNat 3 (e / 2 ^ 29), BitVec.ofNat 3 (e / 2 ^ 26), BitVec.ofNat 8 (e / 2 ^ 18), fin16 e 14⟩

/-- `DRAIN` (R355). The fields its mode leaves unused are reserved fields; MODE 3 is a reserved code. -/
def decodeDrain (w e : Nat) : Decoded :=
  let agM := fin8 w 10; let ge := reg w 5
  zeroOr (fld w 0 3 + fld e 0 6 +
      (match drainModeOf (fld w 3 2) with
       | some m => if drainFits m agM ge then 0 else 1
       | none => 0))
    (codeOr (drainModeOf (fld w 3 2)) fun m =>
      .instr (.drain (reg w 21) (reg w 16) (fin8 w 13) agM ge m (fin16 e 10) (bit e 9) (fin8 e 6) (engWord e)))

/-- A word of two: first word `w`, engine word `e` (R298). -/
def decodeLong (w e : Nat) : Decoded :=
  let x := engWord e; let opx := fld e 0 14
  match fld w 26 6 with
  | 0x30 => zeroOr (fld w 0 23 + opx) (.instr (.lda (fin8 w 23) x))
  | 0x31 => zeroOr (fld w 0 22 + opx) (.instr (.ldb (fin8 w 23) (fin2 w 22) x))
  | 0x32 => zeroOr (fld w 0 13 + opx) (.instr (.mma (reg w 21) (reg w 16) (fin2 w 15) (bit w 14) (bit w 13) x))
  | 0x33 => decodeDrain w e
  | 0x34 => zeroOr (fld w 0 21 + opx) (.instr (.nmv (reg w 21) x))
  | 0x35 => zeroOr (fld w 0 20 + opx) (.instr (.cpy (fin8 w 23) (fin8 w 20) x))
  | 0x36 => zeroOr (fld w 0 15 + opx) (.instr (.xpose (fin8 w 23) (fin8 w 20) (reg w 15) x))
  | 0x37 => zeroOr (fld w 0 21 + opx) (.instr (.coll (reg w 21) x))
  | 0x38 => zeroOr (fld w 0 22 + opx) (.instr (.ldv (fin2 w 25) (fin8 w 22) x))
  | 0x39 => zeroOr (fld w 0 22 + opx) (.instr (.stv (fin2 w 25) (fin8 w 22) x))
  | 0x3A => zeroOr (fld w 0 13 + opx) (.instr (.vgath (fin2 w 25) (fin8 w 22) (reg w 17) (fin16 w 13) x))
  | 0x3B => zeroOr (fld w 0 13 + opx) (.instr (.vscat (fin2 w 25) (fin8 w 22) (reg w 17) (fin16 w 13) x))
  | 0x3C => zeroOr (fld w 0 21 + opx) (.instr (.chain (reg w 21) x))
  | _ => .illegal 1

/-- The decoder (R303, R312, R313): `w` is the first word, `e` the engine word of a long form. -/
def decode (w e : Nat) : Decoded :=
  let d := reg w 21; let a := reg w 16
  match fld w 26 6 with
  | 0x01 => decodeAlu w
  | 0x02 => .instr (.addi d a (BitVec.ofNat 16 w))
  | 0x03 => .instr (.andi d a (BitVec.ofNat 16 w))
  | 0x04 => .instr (.ori d a (BitVec.ofNat 16 w))
  | 0x05 => .instr (.xori d a (BitVec.ofNat 16 w))
  | 0x06 => zeroOr (fld w 6 10) (.instr (.shli d a (fin64 w 0)))
  | 0x07 => zeroOr (fld w 6 10) (.instr (.shri d a (fin64 w 0)))
  | 0x08 => zeroOr (fld w 6 10) (.instr (.srai d a (fin64 w 0)))
  | 0x09 => codeOr (condOf (fld w 13 3)) fun cc => .instr (.cmpi d a cc (BitVec.ofNat 13 w))
  | 0x0A => zeroOr (fld w 16 5) (.instr (.movi d (BitVec.ofNat 16 w)))
  | 0x0B => zeroOr (fld w 18 3) (.instr (.movh d (BitVec.ofNat 16 w) (fin4 w 16)))
  | 0x0C => zeroOr (fld w 12 3)
      (allowedOr (fieldFits (fin64 w 6) (fin64 w 0)) (.instr (.ext d a (bit w 15) (fin64 w 6) (fin64 w 0))))
  | 0x0D => zeroOr (fld w 12 4)
      (allowedOr (fieldFits (fin64 w 6) (fin64 w 0)) (.instr (.ins d a (fin64 w 6) (fin64 w 0))))
  | 0x10 => decodeLd w
  | 0x11 => decodeSt w
  | 0x12 => decodeAmo w
  | 0x13 => decodeAcas w
  | 0x14 => decodeAred w
  | 0x15 => decodeMcst w
  | 0x18 => .instr (.b (BitVec.ofNat 26 w))
  | 0x19 => .instr (.jal (BitVec.ofNat 26 w))
  | 0x1A => zeroOr (fld w 0 16) (.instr (.jr d a))
  | 0x1B => zeroOr a.val (allowedOr (fld w 0 16 != 0) (.instr (.loop d (BitVec.ofNat 16 w))))
  | 0x1C => .instr (.beq d a (BitVec.ofNat 16 w))
  | 0x1D => .instr (.bne d a (BitVec.ofNat 16 w))
  | 0x1E => .instr (.blt d a (BitVec.ofNat 16 w))
  | 0x1F => .instr (.bge d a (BitVec.ofNat 16 w))
  | 0x20 => .instr (.bltn d a (BitVec.ofNat 16 w))
  | 0x21 => .instr (.bgen d a (BitVec.ofNat 16 w))
  | 0x22 => decodeSys w
  | 0x23 => decodeFlag w
  | 0x24 => decodeBar w
  | 0x25 => decodeTask w
  | 0x26 => decodeStep w
  | 0x28 => decodeVarith w
  | 0x29 => decodeVcmp w
  | 0x2A => decodeVconv w
  | 0x2B => decodeVsf w
  | 0x2C => decodeVperm w
  | 0x2D => decodeVpart w
  | 0x2E => decodeMom w
  | 0x2F => decodeTile w
  | _ => decodeLong w e

/-- The instruction of a table row whose bits are `w` (bit 0 the least significant bit of the first word; the bits above
`nbits` are 0). -/
def decodeTableWord (nbits w : Nat) : Option Instr :=
  let x := w % 2 ^ nbits
  match decode (x % 2 ^ 32) (x / 2 ^ 32 % 2 ^ 32) with
  | .instr i => some i
  | .illegal _ => none

/-! ### The encoder -/

def b2n (x : Bool) : Nat := if x then 1 else 0

/-- R format (R297). -/
def encR (maj d a b c sub : Nat) : Nat :=
  maj * 2 ^ 26 + d * 2 ^ 21 + a * 2 ^ 16 + b * 2 ^ 11 + c * 2 ^ 6 + sub

/-- I format and B format (R297). -/
def encI (maj d a imm : Nat) : Nat := maj * 2 ^ 26 + d * 2 ^ 21 + a * 2 ^ 16 + imm

/-- M-A format (R297). -/
def encMA (maj d a st size b op : Nat) : Nat :=
  maj * 2 ^ 26 + d * 2 ^ 21 + a * 2 ^ 16 + st * 2 ^ 12 + size * 2 ^ 9 + b * 2 ^ 4 + op

/-- V format (R297). -/
def encV (maj : Nat) (f : VFields) (fn : Nat) : Nat :=
  maj * 2 ^ 26 + f.vd.val * 2 ^ 21 + f.a.val * 2 ^ 16 + f.b.val * 2 ^ 11 + f.ty.val * 2 ^ 7 + fn

/-- The engine word (R298). -/
def encE (e : EngWord) (opx : Nat) : Nat :=
  e.take.toNat * 2 ^ 29 + e.give.toNat * 2 ^ 26 + e.guard.toNat * 2 ^ 18 + e.st.val * 2 ^ 14 + opx

/-- The words of an instruction: the first word, and the engine word of a long form (0 for a short form). Events have none. -/
def encode : Instr → Option (Nat × Nat)
  | .add d a b => some (encR 0x01 d a b 0 0x00, 0)
  | .sub d a b => some (encR 0x01 d a b 0 0x01, 0)
  | .mul d a b => some (encR 0x01 d a b 0 0x02, 0)
  | .mulh d a b n => some (encR 0x01 d a b (b2n n) 0x03, 0)
  | .div d a b n => some (encR 0x01 d a b (b2n n) 0x04, 0)
  | .rem d a b n => some (encR 0x01 d a b (b2n n) 0x05, 0)
  | .and d a b => some (encR 0x01 d a b 0 0x06, 0)
  | .or d a b => some (encR 0x01 d a b 0 0x07, 0)
  | .xor d a b => some (encR 0x01 d a b 0 0x08, 0)
  | .shl d a b => some (encR 0x01 d a b 0 0x09, 0)
  | .shr d a b => some (encR 0x01 d a b 0 0x0A, 0)
  | .sra d a b => some (encR 0x01 d a b 0 0x0B, 0)
  | .min d a b n => some (encR 0x01 d a b (b2n n) 0x0C, 0)
  | .max d a b n => some (encR 0x01 d a b (b2n n) 0x0D, 0)
  | .clz d a => some (encR 0x01 d a 0 0 0x0E, 0)
  | .popc d a => some (encR 0x01 d a 0 0 0x0F, 0)
  | .sel d a b c => some (encR 0x01 d a b c 0x10, 0)
  | .cmp d a b cc => some (encR 0x01 d a b (condCode cc) 0x11, 0)
  | .addi d a imm => some (encI 0x02 d a imm.toNat, 0)
  | .andi d a imm => some (encI 0x03 d a imm.toNat, 0)
  | .ori d a imm => some (encI 0x04 d a imm.toNat, 0)
  | .xori d a imm => some (encI 0x05 d a imm.toNat, 0)
  | .shli d a sh => some (encI 0x06 d a sh, 0)
  | .shri d a sh => some (encI 0x07 d a sh, 0)
  | .srai d a sh => some (encI 0x08 d a sh, 0)
  | .cmpi d a cc imm => some (encI 0x09 d a (condCode cc * 2 ^ 13 + imm.toNat), 0)
  | .movi d imm => some (encI 0x0A d 0 imm.toNat, 0)
  | .movh d imm k => some (encI 0x0B d k imm.toNat, 0)
  | .ext d a s pos lm => some (encI 0x0C d a (b2n s * 2 ^ 15 + pos * 2 ^ 6 + lm), 0)
  | .ins d a pos lm => some (encI 0x0D d a (pos * 2 ^ 6 + lm), 0)
  | .ld d a st size off => some (encI 0x10 d a (st * 2 ^ 12 + ldSizeCode size * 2 ^ 9 + off.toNat), 0)
  | .st d a st size off => some (encI 0x11 d a (st * 2 ^ 12 + size * 2 ^ 9 + off.toNat), 0)
  | .amo d a b st size op => some (encMA 0x12 d a st size b (atOpCode op), 0)
  | .ldAtom d a st size => some (encMA 0x12 d a st size 0 15, 0)
  | .acas d a b st size => some (encMA 0x13 d a st size b 0, 0)
  | .ared a b st size op => some (encMA 0x14 0 a st size b (atOpCode op), 0)
  | .mcst g a b st size op => some (encMA 0x15 g a st size b (atOpCode op), 0)
  | .b off => some (0x18 * 2 ^ 26 + off.toNat, 0)
  | .jal off => some (0x19 * 2 ^ 26 + off.toNat, 0)
  | .jr d a => some (encI 0x1A d a 0, 0)
  | .loop a len => some (encI 0x1B a 0 len.toNat, 0)
  | .beq a b off => some (encI 0x1C a b off.toNat, 0)
  | .bne a b off => some (encI 0x1D a b off.toNat, 0)
  | .blt a b off => some (encI 0x1E a b off.toNat, 0)
  | .bge a b off => some (encI 0x1F a b off.toNat, 0)
  | .bltn a b off => some (encI 0x20 a b off.toNat, 0)
  | .bgen a b off => some (encI 0x21 a b off.toNat, 0)
  | .nop => some (encR 0x22 0 0 0 0 0x00, 0)
  | .endSeq => some (encR 0x22 0 0 0 0 0x01, 0)
  | .trap a => some (encR 0x22 0 a 0 0 0x02, 0)
  | .eret => some (encR 0x22 0 0 0 0 0x03, 0)
  | .bkpt => some (encR 0x22 0 0 0 0 0x04, 0)
  | .pause => some (encR 0x22 0 0 0 0 0x05, 0)
  | .fence m => some (0x22 * 2 ^ 26 + m.toNat * 2 ^ 6 + 0x06, 0)
  | .rds d x => some (0x22 * 2 ^ 26 + d * 2 ^ 21 + sprIndex x * 2 ^ 11 + 0x07, 0)
  | .wrs x d => some (0x22 * 2 ^ 26 + d * 2 ^ 21 + sprIndex x * 2 ^ 11 + 0x08, 0)
  | .take m => some (0x22 * 2 ^ 26 + m.toNat * 2 ^ 6 + 0x09, 0)
  | .give m => some (0x22 * 2 ^ 26 + m.toNat * 2 ^ 6 + 0x0A, 0)
  | .fwait d a b cc t => some (encR 0x23 d a b (condCode cc * 2 + b2n t) 0x00, 0)
  | .fset a b => some (encR 0x23 0 a b 0 0x01, 0)
  | .fadd d a b => some (encR 0x23 d a b 0 0x02, 0)
  | .fget d a => some (encR 0x23 d a 0 0 0x03, 0)
  | .gset a b => some (encR 0x23 0 a b 0 0x04, 0)
  | .binit d a b => some (encR 0x24 d a b 0 0x00, 0)
  | .barv d a b t => some (encR 0x24 d a b (b2n t) 0x01, 0)
  | .bwait d a b t => some (encR 0x24 d a b (b2n t) 0x02, 0)
  | .tpost d a w => some (encR 0x25 d a 0 (b2n w) 0x00, 0)
  | .tpostx a b c w => some (encR 0x25 (b2n w) a b c 0x01, 0)
  | .tstat d a => some (encR 0x25 d a 0 0 0x02, 0)
  | .frdef d a b => some (encR 0x25 d a b 0 0x03, 0)
  | .frfree d a => some (encR 0x25 d a 0 0 0x04, 0)
  | .larm d a => some (encR 0x25 d a 0 0 0x05, 0)
  | .lpatch d a b => some (encR 0x25 d a b 0 0x06, 0)
  | .sseal d => some (encR 0x26 d 0 0 0 0x00, 0)
  | .sstat d a b => some (encR 0x26 d a b 0 0x01, 0)
  | .swait d a t => some (encR 0x26 d a 0 (b2n t) 0x02, 0)
  | .crule d a b => some (encR 0x26 d a b 0 0x03, 0)
  | .iwdef d a b => some (encR 0x26 d a b 0 0x04, 0)
  | .vadd f s => some (encV 0x28 f (b2n s * 2 ^ 5 + 0x0), 0)
  | .vsub f s => some (encV 0x28 f (b2n s * 2 ^ 5 + 0x1), 0)
  | .vmul f s => some (encV 0x28 f (b2n s * 2 ^ 5 + 0x2), 0)
  | .vfma f => some (encV 0x28 f 0x3, 0)
  | .vmin f => some (encV 0x28 f 0x4, 0)
  | .vmax f => some (encV 0x28 f 0x5, 0)
  | .vabs f => some (encV 0x28 f 0x6, 0)
  | .vneg f => some (encV 0x28 f 0x7, 0)
  | .vand f => some (encV 0x28 f 0x8, 0)
  | .vor f => some (encV 0x28 f 0x9, 0)
  | .vxor f => some (encV 0x28 f 0xA, 0)
  | .vshl f => some (encV 0x28 f 0xB, 0)
  | .vshr f => some (encV 0x28 f 0xC, 0)
  | .vsel f => some (encV 0x28 f 0xD, 0)
  | .vmov f => some (encV 0x28 f 0xE, 0)
  | .vcmp f cc => some (encV 0x29 f (condCode cc), 0)
  | .vcvt f t s => some (encV 0x2A f (b2n s * 2 ^ 6 + t * 2 ^ 2 + 0), 0)
  | .vwid f t s => some (encV 0x2A f (b2n s * 2 ^ 6 + t * 2 ^ 2 + 1), 0)
  | .vnar f t s => some (encV 0x2A f (b2n s * 2 ^ 6 + t * 2 ^ 2 + 2), 0)
  | .vsf f fn => some (encV 0x2B f (sfFnCode fn), 0)
  | .vred f op => some (encV 0x2C f (redOpCode op * 2 ^ 3 + 0), 0)
  | .vbc f => some (encV 0x2C f 1, 0)
  | .viota f => some (encV 0x2C f 2, 0)
  | .vperm f => some (encV 0x2C f 3, 0)
  | .vsetl f => some (encV 0x2C f 4, 0)
  | .vpart f => some (encV 0x2D f 0, 0)
  | .mclr f => some (encV 0x2E f 0, 0)
  | .mupd f => some (encV 0x2E f 1, 0)
  | .mupdw f => some (encV 0x2E f 2, 0)
  | .mmrg f => some (encV 0x2E f 3, 0)
  | .mget f => some (encV 0x2E f 4, 0)
  | .mnorm f => some (encV 0x2E f 5, 0)
  | .mld f => some (encV 0x2E f 6, 0)
  | .mst f => some (encV 0x2E f 7, 0)
  | .azero a b => some (encR 0x2F 0 a b 0 0x00, 0)
  | .fmtq a => some (encR 0x2F 0 a 0 0 0x01, 0)
  | .agld n a imm => some (encI 0x2F n a (imm.toNat * 2 ^ 6 + 0x02), 0)
  | .agst n a imm => some (encI 0x2F n a (imm.toNat * 2 ^ 6 + 0x03), 0)
  | .carm d a b => some (encR 0x2F d a b 0 0x04, 0)
  | .lda n e => some (0x30 * 2 ^ 26 + n * 2 ^ 23, encE e 0)
  | .ldb n b e => some (0x31 * 2 ^ 26 + n * 2 ^ 23 + b * 2 ^ 22, encE e 0)
  | .mma a b buf z k e =>
    some (0x32 * 2 ^ 26 + a * 2 ^ 21 + b * 2 ^ 16 + buf * 2 ^ 15 + b2n z * 2 ^ 14 + b2n k * 2 ^ 13, encE e 0)
  | .drain a b agD agM ge mode ty sat lh e =>
    some (0x33 * 2 ^ 26 + a * 2 ^ 21 + b * 2 ^ 16 + agD * 2 ^ 13 + agM * 2 ^ 10 + ge * 2 ^ 5 + drainModeCode mode * 2 ^ 3,
      encE e (ty * 2 ^ 10 + b2n sat * 2 ^ 9 + lh * 2 ^ 6))
  | .nmv d e => some (0x34 * 2 ^ 26 + d * 2 ^ 21, encE e 0)
  | .cpy agD agS e => some (0x35 * 2 ^ 26 + agD * 2 ^ 23 + agS * 2 ^ 20, encE e 0)
  | .xpose agD agS r e => some (0x36 * 2 ^ 26 + agD * 2 ^ 23 + agS * 2 ^ 20 + r * 2 ^ 15, encE e 0)
  | .coll d e => some (0x37 * 2 ^ 26 + d * 2 ^ 21, encE e 0)
  | .ldv q n e => some (0x38 * 2 ^ 26 + q * 2 ^ 25 + n * 2 ^ 22, encE e 0)
  | .stv q n e => some (0x39 * 2 ^ 26 + q * 2 ^ 25 + n * 2 ^ 22, encE e 0)
  | .vgath q n b ty e => some (0x3A * 2 ^ 26 + q * 2 ^ 25 + n * 2 ^ 22 + b * 2 ^ 17 + ty * 2 ^ 13, encE e 0)
  | .vscat q n b ty e => some (0x3B * 2 ^ 26 + q * 2 ^ 25 + n * 2 ^ 22 + b * 2 ^ 17 + ty * 2 ^ 13, encE e 0)
  | .chain d e => some (0x3C * 2 ^ 26 + d * 2 ^ 21, encE e 0)
  | .sequencerWake _ _ => none
  | .waitTimeout _ _ => none
  | .bwaitTimeout _ _ => none
  | .pauseEnd _ _ => none
  | .engineQueueHead _ => none
  | .aRingRowDelivery _ => none
  | .ldaComplete _ => none
  | .ldbComplete _ => none
  | .mmaComplete _ => none
  | .drainComplete _ => none
  | .ldvComplete _ => none
  | .stvComplete _ => none
  | .vgathComplete _ => none
  | .vscatComplete _ => none
  | .chainComplete _ => none
  | .cpyComplete _ => none
  | .xposeComplete _ => none
  | .nmvComplete _ => none
  | .engineCommandFault _ => none
  | .postSequencerTake => none
  | .postRetry _ => none
  | .tpostWaitExpiry _ => none
  | .ergRelease => none
  | .readyClassRaise _ => none
  | .taskRetire _ => none
  | .abortedCellFree _ => none
  | .remotePostArrival _ => none
  | .tpostxAnswer _ _ => none
  | .tpostxNoAnswer _ => none
  | .pageWalkComplete _ => none
  | .peerReadRequest _ => none
  | .peerReadResponse _ _ => none
  | .remoteReadTimeout _ => none
  | .caravanRecordArrival _ => none
  | .sealSend _ => none
  | .sealArrival _ => none
  | .boundaryRelease _ => none
  | .boundaryApply _ => none
  | .boundaryResultReport _ => none
  | .boundaryRecordTimeout _ _ => none
  | .inboundStallTimeout _ _ => none
  | .packetForward _ => none
  | .packetResend _ => none
  | .linkStateChange _ _ => none
  | .podBarrierArrival _ => none
  | .podBarrierPhase _ => none
  | .podBarvTimeout _ _ => none
  | .proxyAbsenceToken _ => none
  | .absenceTokenWithdrawal _ => none
  | .armedRunStart _ _ => none
  | .collSend _ => none
  | .collRecv _ => none
  | .collRrs _ => none
  | .collCopy _ => none
  | .collWait _ => none
  | .collSignal _ => none
  | .collLoop _ => none
  | .collEnd _ => none
  | .collDataArrival _ => none
  | .collCreditArrival _ => none
  | .collAckArrival _ => none
  | .collAbortArrival _ => none
  | .collRunTimeout _ => none
  | .taskWatchdogExpiry _ => none
  | .ladderLevelOverrun _ => none
  | .cairnHeartbeatMissing _ => none
  | .siroccoHeartbeatMissing => none
  | .functionLevelReset => none
  | .powerUp _ => none
  | .parityError _ => none
  | .patrolScrub _ => none
  | .powerCapClockStep => none
  | .preemptionRequest _ => none
  | .preemptionSave _ => none
  | .preemptionAbandon _ => none
  | .saveLost _ => none
  | .shootdownReport _ => none
  | .shootdownTimeout => none
  | .launch _ => none
  | .framedef _ => none
  | .framefree _ => none
  | .ctxcfg _ => none
  | .shootdown _ => none
  | .keyinst _ => none
  | .ctxout _ => none
  | .ctxin _ => none
  | .preempt _ => none
  | .hostNop _ => none
  | .abort _ => none
  | .podjoin _ => none
  | .podremove _ => none
  | .podleave _ => none
  | .doorbell _ _ => none
  | .trigger _ _ => none
  | .qctl _ _ => none
  | .restart _ => none
  | .pcap _ => none
  | .eccCounterRead _ => none
  | .lsend _ _ => none
  | .lrecv _ => none
  | .registerWrite _ _ _ => none
  | .verifyComplete => none
  | .activateFirmware => none
  | .handoverHeartbeatTimeout => none
  | .getVersion _ => none
  | .getCapabilities _ => none
  | .negotiateAlgorithms _ => none
  | .getDigests _ => none
  | .getCertificate _ => none
  | .challenge _ => none
  | .getMeasurements _ => none
  | .sandglassRead _ _ => none
  | .accessPerformed _ => none
  | .rowUpdate _ => none
  | .entryFilled _ => none
  | .illegalEncoding _ _ => none
  | .imageStaged _ _ => none
  | .handOverComplete => none

end Sys2Proof
end

