-- ==== Sys2Proof/Machine/Fetch.lean ====
section
/-! DEFINITION. Fetching and decoding an instruction (R295, R296), and the order of what R263 and R313 say is judged first. -/

namespace Sys2Proof.Machine

/-- A fetch has no footprint, and it is no access of a stream (R96). -/
def State.fetchAgent (s : State) : Agent :=
  ⟨s.ctxIx, some s.cell, none, 0, 0, s.myCtx.step, none, s.cell.val * 4 + (roleIx s.role).val⟩

/-- One word at an address, under the checks of R96 for fetches. -/
def State.fetchWord (s : State) (va : Nat) : XR Nat :=
  (s.translateAll s.fetchAgent .fetch (pieces 2 va 4)).bind fun s1 gs =>
    (s1.readSegs s.fetchAgent gs).bind fun s2 bs => .ok s2 (natOf bs)

/-- What a fetch gives. -/
inductive Fetched where
  | instr (s : State) (i : Instr)
  | trap (t : TrapInfo)
  | again (s : State)
  | stop (f : Fault)

/-- The instruction that words stand for: an illegal word is the event of its trap (R312). -/
def decodedInstr (w e : Nat) : Instr :=
  match decode w e with
  | .instr i => i
  | .illegal d => .illegalEncoding d (word (w + e * 2 ^ 32))

/-- Fetching the instruction at PC. A fault in the engine word is reported at the first word (R296). -/
def State.fetchInstr (s : State) : Fetched :=
  let pc := s.me.pc.toNat
  match s.fetchWord pc with
  | .fault f => .trap f.trap
  | .stop pa => .stop (.noSuchHbm pa)
  | .pend s1 => .again s1
  | .stall _ => .again s
  | .ok s1 w =>
    if isLong w then
      match s1.fetchWord ((pc + 4) % 2 ^ 64) with
      | .fault f => .trap f.trap
      | .stop pa => .stop (.noSuchHbm pa)
      | .pend s2 => .again s2
      | .stall _ => .again s
      | .ok s2 e => .instr s2 (decodedInstr w e)
    else .instr s1 (decodedInstr w 0)

/-! ### Placing an instruction where the next step fetches it (log entry 14) -/

/-- A sequencer on which an instruction is legal (R23, R24). -/
def legalRole : Instr → Role
  | .lda .. | .ldb .. | .ldv .. | .vgath .. | .nmv .. => .L
  | .drain .. | .stv .. | .vscat .. => .S
  | .vadd .. | .vsub .. | .vmul .. | .vfma .. | .vmin .. | .vmax .. | .vabs .. | .vneg .. | .vand .. | .vor .. | .vxor .. | .vshl ..
  | .vshr .. | .vsel .. | .vmov .. | .vcmp .. | .vcvt .. | .vwid .. | .vnar .. | .vsf .. | .vred .. | .vbc .. | .viota .. | .vperm ..
  | .vsetl .. | .vpart .. | .mclr .. | .mupd .. | .mupdw .. | .mmrg .. | .mget .. | .mnorm .. | .mld .. | .mst .. | .mma ..
  | .chain .. | .azero .. | .rds _ .fpctl | .rds _ .fpflg | .rds _ .vl | .rds _ .accp | .wrs .fpctl _ | .wrs .fpflg _ | .wrs .vl _
  | .wrs .accp _ => .C
  | _ => .K

/-- A leaf for 64 KiB of HBM at physical address 0 with every permission, in the clear (R91). -/
def openLeaf : Word := word (2 ^ 8 + 2 ^ 7 + 2 ^ 6 + 2 ^ 5 + 2 ^ 4 + 2 + 1)

/-- The task that stands for a loaded program: a CELL task of context 0 whose body is at address 0. -/
def loadedTask (stamp : Nat) : Task :=
  { stamp := stamp, ctx := 0, kind := .cell, place := 0, prio := 0, cls := 0, accFirst := 0, accEnd := 0, body := 0, cflag := 0
    tokens := 0, args := Vector.replicate 6 0, payload := 0, tabS := 0, tabD := 0, boxes := [], slices := [0], primary := 0
    preds := [], state := .running, cell := some 0, readySince := 0, claim := none, launch := none, slot := none, req := none
    pageObjs := [], watchdog := 0 }

/-- Cell 0 with that task started on it, and the translation of its code in the cell's cache. -/
def State.withTask (s : State) : State :=
  let t := loadedTask s.erg.nextStamp
  let s1 := { s with
    cell := 0
    mem := { s.mem with micro := s.mem.micro.set (0 : Fin 256) [tlbEntry 0 0 3 openLeaf.toNat] }
    erg := { s.erg with
      tasks := s.erg.tasks ++ [t], nextStamp := s.erg.nextStamp + 1, issuers := smSet 0 s.erg.nextStamp 1 s.erg.issuers } }
  s1.setCell 0 (cellFor t (s.ctxAt 0).wdef)

/-- The instruction's words at address 0: each 32-bit word little-endian, the first at the lower address (R2, R295). -/
def State.withCode (s : State) (w : Nat) : State := s.writeBytes ((bytesOf 8 w).zipIdx.map fun x => (x.2, x.1, 0))

end Sys2Proof.Machine
end

