-- ==== Sys2Proof/Machine/Sched.lean ====
section
/-! DEFINITION. The passing of one mc (R3, R45): what counts up, and which events and issues the next mc holds; and what the outside
does to the device. -/

namespace Sys2Proof.Machine

/-! ### What counts up -/

/-- One mc of the clock in use, in fs (R3, R17). -/
def State.mcTime (s : State) : Nat := 1000000000 / s.host.mclk

/-- A wait after one more mc. No time counts while a member is absent (R228, R237), and none for a BWAIT whose object has AH set
(R208); the 25 µs of a pod arrival count down while no live route reaches the home, before it has left and after (R339). -/
def Wait.tick (w : Wait) (absent held route : Bool) (mc : Nat) : Wait :=
  match w with
  | .flag a cc r t d b e sat => .flag a cc r t d b (e + 1) sat
  | .barrier a p t d e sat => if absent || held then w else .barrier a p t d (e + 1) sat
  | .step n t d b e sat => if absent then w else .step n t d b (e + 1) sat
  | .pause n => .pause (n - 1)
  | .home id a c t sent d left => if sent && route then w else .home id a c t sent d (left - mc)
  | .tokens _ | .popQueue _ | .pushQueue .. | .fmtEmpty | .fmtFull | .engine _ | .post _ => w

/-- AH of the object that a BWAIT waits on. -/
def State.waitHeld (s : State) (ctx : Fin 64) (w : Wait) : Bool :=
  match w with
  | .barrier a _ _ _ _ _ => (s.barObj ctx a.toNat).ah
  | _ => false

/-- A live route reaches the home of the pod barriers of a context. -/
def State.homeReached (s : State) (ctx : Fin 64) : Bool := !s.cutOff (s.ctxAt ctx) (s.ctxAt ctx).home

/-- A sequencer after one more mc: its wait, the wait in which it was stopped, and its stall on an inbound window, whose time stops while
a member is absent (R229). -/
def State.tickSeq (s : State) (ctx : Fin 64) (y : Seq) : Seq :=
  let absent := (s.ctxAt ctx).absent
  let on := fun (w : Wait) => w.tick absent (s.waitHeld ctx w) (s.homeReached ctx) s.mcTime
  { y with
    status := match y.status with
      | .waiting w => .waiting (on w)
      | k => k
    paused := y.paused.map on
    stall := y.stall.map fun p => (p.1, if absent then p.2 else p.2 + 1) }

/-- Shadows that AGLDs of the mc have read take effect (R334). -/
def latchShadows (v : Vector AgImage 8) (l : List (Fin 8 × AgImage)) : Vector AgImage 8 :=
  l.foldl (fun (w : Vector AgImage 8) (p : Fin 8 × AgImage) => w.set p.1 p.2) v

/-- A cell after one more mc: its waits, its shadows and its task watchdog (R272). -/
def State.tickCell (s : State) (x : Cell) : Cell :=
  match x.task with
  | none => x
  | some _ =>
    { x with
      seqs := vmap (s.tickSeq x.ctx) x.seqs
      ag := latchShadows x.ag x.agNew
      agNew := []
      watchdog := if x.progress then 0 else if (s.ctxAt x.ctx).absent then x.watchdog else x.watchdog + 1
      progress := false }

/-- One more mc of a stall on an inbound window (R229). -/
def stallTick (absent : Bool) (n : Nat) : Nat := if n = 0 || absent then n else n + 1

def State.tickCmd (s : State) (m : Cmd) : Cmd := { m with stalled := stallTick (s.ctxAt m.ctx).absent m.stalled }

/-- A run's own time stops while a member is absent (R255). -/
def State.tickRun (s : State) (r : Run) : Run :=
  let absent := (s.ctxAt r.ctx).absent
  { r with stalled := stallTick absent r.stalled, elapsed := if absent then r.elapsed else r.elapsed + 1 }

def State.tickRemote (s : State) (r : Remote) : Remote :=
  if r.ans.isSome && !(s.ctxAt r.ctx).absent then { r with stalled := r.stalled + 1 } else r

/-- T0 of an entry armed in the mc that ends is its trigger flag at that end (R342). -/
def State.tickEntry (s : State) (e : Option ArmedEntry) : Option ArmedEntry :=
  e.map fun x => if x.fresh then { x with t0 := s.flagAt x.ctx (deviceFlagAddr (collTrig x.desc)), fresh := false } else x

/-- What an RDS of the next mc reads (R302). -/
def Ctx.seen (x : Ctx) : Ctx := { x with stepSeen := x.step.zeroExtend 64, stepstSeen := x.stepst }

/-- A core that does not hang sends its heartbeat (R272). -/
def Firmware.beat (f : Firmware) (fs : Nat) : Firmware :=
  { f with
    cairnBeat := Vector.ofFn fun n => if f.hungC.getLsbD n.val then f.cairnBeat[n] else fs
    siroccoBeat := if f.hungS then f.siroccoBeat else fs }

/-- A waiting post notes the mc in which a task that was in flight at its last attempt has left the Erg (R72). -/
def State.tickPost (s : State) (p : PostReq) : PostReq :=
  if !p.queued && p.freedAt.isNone && p.inFlight.any fun st => (s.taskOf st).isNone then { p with freedAt := some s.clk.cycle.toNat }
  else p

/-- Step 3 of a hand-over: once the new image sends heartbeats, the controllers are replaced one cluster at a time (R290). -/
def Firmware.replaceOne (f : Firmware) : Firmware :=
  if f.handover.isSome && !f.hungS && decide (f.replaced < 16) then { f with replaced := f.replaced + 1 } else f

/-- Everything that counts with the mc. -/
def State.passTime (s : State) : State :=
  let fs := s.clk.fs + s.mcTime
  { s with
    clk := { s.clk with cycle := s.clk.cycle + 1, fs := fs }
    cells := vmap s.tickCell s.cells
    cmds := s.cmds.map s.tickCmd
    ctxs := vmap Ctx.seen s.ctxs
    erg := { s.erg with posts := s.erg.posts.map s.tickPost }
    fab := { s.fab with remotes := s.fab.remotes.map s.tickRemote }
    col := { s.col with
      entries := vmap (fun (v : Vector (Option ArmedEntry) 16) => vmap s.tickEntry v) s.col.entries
      runs := s.col.runs.map s.tickRun }
    host := s.host.commit
    mgmt := { s.mgmt with fw := (s.mgmt.fw.beat fs).replaceOne } }

/-! ### Work of the units that no event names -/

/-- Every sequencer. -/
def allSeqs : List (Fin 256 × Role) := (List.finRange 256).flatMap fun c => allRoles.map fun q => (c, q)

/-- A BARV that found no route to its home tries again (R339). -/
def State.retryHome (s : State) (c : Fin 256) (q : Role) : State :=
  match (s.seqAt c q).status with
  | .waiting (.home id a n t false d left) =>
    let x := s.ctxAt (s.cellAt c).ctx
    match s.send x .request x.home 0 (.barArrive id a.toNat n.toNat t) with
    | some s1 => s1.setSeq c q { s1.seqAt c q with status := .waiting (.home id a n t true d left) }
    | none => s
  | _ => s

/-- Sequencers of the cells on which a task runs. -/
def State.busySeqs (s : State) : List (Fin 256 × Role) := allSeqs.filter fun p => (s.cellAt p.1).task.isSome

def Wait.unsent : Wait → Bool
  | .home _ _ _ _ sent _ _ => !sent
  | .tokens _ | .popQueue _ | .pushQueue .. | .fmtEmpty | .fmtFull | .engine _ | .flag .. | .barrier .. | .step .. | .pause _
  | .post _ => false

def State.retryHomes (s : State) : State :=
  (s.busySeqs.filter fun p => ((s.seqAt p.1 p.2).status.wait?.map Wait.unsent).getD false).foldl
    (fun (t : State) p => t.retryHome p.1 p.2) s

/-- A restart ends with the firmware's first heartbeat (R272). -/
def State.tryEndRestart (s : State) : State := if s.mgmt.fw.restarting && !s.mgmt.fw.hungS then s.endRestart else s

/-! ### Events at the end of a bound: they come as soon as their condition holds -/

def waitDue (c : Fin 256) (q : Role) : Wait → List Instr
  | .flag .. | .step .. => [.waitTimeout c q]
  | .barrier .. => [.bwaitTimeout c q]
  | .pause _ => [.pauseEnd c q]
  | .home .. => [.podBarvTimeout c q]
  | .tokens _ | .popQueue _ | .pushQueue .. | .fmtEmpty | .fmtFull | .engine _ | .post _ => []

def State.waitOf (s : State) (p : Fin 256 × Role) : Option Wait := (s.seqAt p.1 p.2).status.wait?

/-- The bounds of the given sequencers' stalls. -/
def State.stallsDue (s : State) (l : List (Fin 256 × Role)) : List Instr :=
  (l.filter fun p => (s.seqAt p.1 p.2).stall.isSome).map fun p => Instr.inboundStallTimeout p.1 p.2

/-- The events of the waits of the given sequencers. -/
def State.eachWait (s : State) (l : List (Fin 256 × Role)) (f : Fin 256 → Role → Wait → List Instr) : List Instr :=
  l.flatMap fun p => match s.waitOf p with | some w => f p.1 p.2 w | none => []

def Task.due (t : Task) : List Instr :=
  (if t.kind == TaskKind.cell && (t.state == TaskState.running || t.state == TaskState.ending) then [.taskWatchdogExpiry t.stamp] else []) ++
  (if t.state == TaskState.ready && decide (t.cls < 3) then [.readyClassRaise t.stamp] else []) ++
  (if t.req.isSome then [.preemptionAbandon t.stamp, .saveLost t.stamp] else [])

/-- The bounds of a waiting post: WINTMO, and its next attempt, 64 mc after an entry was freed and 4,096 mc after the last one (R72). -/
def PostReq.due (now : Nat) (p : PostReq) : List Instr :=
  (if p.wait && p.last.isSome then [.tpostWaitExpiry p.id] else []) ++
  (if !p.queued && (decide (p.lastAt + 4096 ≤ now) || (p.freedAt.any fun f => decide (f + 64 ≤ now))) then [.postRetry p.id] else [])

def State.dueEvents (s : State) (busy : List (Fin 256 × Role)) : List Instr :=
  s.erg.tasks.flatMap Task.due ++ s.eachWait busy waitDue ++ s.stallsDue busy ++ s.erg.posts.flatMap (PostReq.due s.clk.cycle.toNat) ++
  (s.fab.remotes.filter fun r => r.ans.isNone).map (fun r => Instr.tpostxNoAnswer r.id) ++
  (s.fab.reads.filter fun r => r.ans.isNone).map (fun r => Instr.remoteReadTimeout r.id) ++
  ((List.finRange 64).flatMap fun c => ((s.ctxAt c).records.filter fun r => !r.complete).map fun r => Instr.boundaryRecordTimeout c r.step) ++
  s.col.runs.map (fun r => Instr.collRunTimeout r.id) ++ s.mgmt.ladder.map (fun j => Instr.ladderLevelOverrun j.id) ++
  ((List.finRange 16).filter fun n => s.mgmt.fw.hungC.getLsbD n.val).map (fun n => Instr.cairnHeartbeatMissing n) ++
  (if s.mgmt.fw.hungS then [.siroccoHeartbeatMissing] else []) ++
  (if s.mgmt.fw.handover.isSome then [.handoverHeartbeatTimeout] else []) ++
  (if s.host.shoot.isSome then [.shootdownTimeout] else []) ++ [.powerCapClockStep]

/-! ### Events whose time the spec leaves open: the arbiter may defer each of them -/

def waitOpen (c : Fin 256) (q : Role) : Wait → List Instr
  | .tokens _ | .pause _ | .post _ | .home .. => []
  | .popQueue _ | .pushQueue .. | .fmtEmpty | .fmtFull | .engine _ | .flag .. | .barrier .. | .step .. => [.sequencerWake c q]

/-- What a started command can do next. -/
def Cmd.nextEvent (m : Cmd) : Instr :=
  let more := decide (m.prog < m.total)
  match m.op with
  | .lda .. => if more then .aRingRowDelivery m.id else .ldaComplete m.id
  | .ldb .. => .ldbComplete m.id
  | .mma .. => if more then .rowUpdate m.id else .mmaComplete m.id
  | .drain .. => .drainComplete m.id
  | .ldv .. => if more then .entryFilled m.id else .ldvComplete m.id
  | .stv .. => .stvComplete m.id
  | .vgath .. => if more then .entryFilled m.id else .vgathComplete m.id
  | .vscat .. => .vscatComplete m.id
  | .chain .. => .chainComplete m.id
  | .cpy .. => .cpyComplete m.id
  | .xpose .. => .xposeComplete m.id
  | .nmv .. => .nmvComplete m.id
  | .coll _ => .engineQueueHead m.id

def Cmd.events (m : Cmd) : List Instr :=
  match m.state with
  | .queued => [.engineQueueHead m.id]
  | .started => [m.nextEvent, .engineCommandFault m.id]
  | .guarded | .faulted => []

/-- The event of the step at which a run stands; a run without a program reads it first. -/
def Run.event (r : Run) : List Instr :=
  match r.stepAt with
  | none => match r.src with | .entry e => [.armedRunStart r.die e] | .cmd _ => []
  | some w =>
    match stepKind w with
    | 1 => [.collSend r.id] | 2 => [.collRecv r.id] | 3 => [.collRrs r.id] | 4 => [.collCopy r.id]
    | 5 => [.collWait r.id] | 6 => [.collSignal r.id] | 7 => [.collLoop r.id] | 8 => [.collEnd r.id]
    | _ => []

def Task.open (t : Task) : List Instr :=
  (if t.state == TaskState.ending then [.taskRetire t.stamp] else []) ++ (if t.req.isSome then [.preemptionSave t.stamp] else [])

/-- The command of the next entry of a queue. -/
def opEvent (q : Fin 64) : Nat → Instr
  | 1 => .launch q | 2 => .framedef q | 3 => .framefree q | 4 => .ctxcfg q | 5 => .shootdown q | 6 => .keyinst q | 7 => .ctxout q
  | 8 => .ctxin q | 9 => .preempt q | 11 => .abort q | 12 => .podjoin q | 13 => .podremove q | 14 => .podleave q
  | _ => .hostNop q

def State.queueEvents (s : State) (q : Fin 64) : List Instr :=
  let h := s.queueAt q
  match h.busy with
  | .ctxout .. => [.ctxout q]
  | .abort _ => [.abort q]
  | .none => if s.queueOpen q && (h.dueTrig.isSome || h.consumed != h.doorbell) then [opEvent q (natAt (s.nextEntry q) 4 4)] else []
  | .post _ | .shootdown | .preempt _ | .ctxin _ => []

def PostReq.open (now : Nat) (p : PostReq) : List Instr := if !p.queued && decide (64 ≤ now - p.lastAt) then [.postRetry p.id] else []

/-- The entry slots in use. -/
def State.armed (s : State) : List (Fin 2 × Fin 16) :=
  ((List.finRange 2).flatMap fun d => (List.finRange 16).map fun e => (d, e)).filter fun p => (s.entryAtDie p.1 p.2).isSome

/-- Cells whose aborted task has not left them. -/
def State.leaving (s : State) : List Nat :=
  (List.finRange 256).filterMap fun c => (s.cellAt c).task.filter fun t => (s.taskOf t).isNone

def State.openEvents (s : State) (busy : List (Fin 256 × Role)) : List Instr :=
  s.mem.pend.map (fun p => Instr.accessPerformed p.id) ++ s.walking.map (fun k => Instr.pageWalkComplete k.id) ++
  s.cmds.flatMap Cmd.events ++ s.eachWait busy waitOpen ++
  s.erg.posts.flatMap (PostReq.open s.clk.cycle.toNat) ++ 
  s.erg.tasks.flatMap Task.open ++ s.leaving.map Instr.abortedCellFree ++
  s.fab.remotes.filterMap (fun r => r.ans.map fun v => Instr.tpostxAnswer r.id v) ++
  ((List.finRange 64).filter fun c => (s.ctxAt c).joined).flatMap (fun c => [Instr.sealSend c, .boundaryApply c]) ++
  (s.fab.unacked.filter fun u => !s.linkIsUp u.1).map (fun u => Instr.packetResend u.2.seqNo) ++
  (s.fab.serveWaits.filter s.servableNow).map (fun w => Instr.peerReadRequest w.packet) ++
  s.armed.map (fun p => Instr.armedRunStart p.1 p.2) ++ s.col.runs.flatMap Run.event ++
  (if s.host.shoot.isSome then (List.finRange 16).map Instr.shootdownReport else []) ++
  (List.finRange 64).flatMap s.queueEvents ++
  (if s.mgmt.fw.handover.isSome && s.mgmt.fw.replaced == 16 then [.handOverComplete] else [])

/-- The arbiter's choice for one mc: bit k of the number defers event k. -/
def chosen (mask : Nat) (l : List Instr) : List Instr := (l.zipIdx.filter fun x => bitsOf mask x.2 1 == 0).map (·.1)

/-! ### The plan of one mc -/

/-- The ready sequencers issue in cell order and then in SEQ order. -/
def State.issues (s : State) (busy : List (Fin 256 × Role)) : List Turn :=
  (busy.filter fun p => (s.seqAt p.1 p.2).status == .ready).map fun p => .issue p.1 p.2

/-- Takes that wait are judged after every give of the mc (R31). -/
def State.lateTakes (s : State) (busy : List (Fin 256 × Role)) : List Turn :=
  busy.flatMap fun p =>
    match s.waitOf p with
    | some (.tokens _) => [.event (.sequencerWake p.1 p.2), .late p.1 p.2]
    | _ => []

/-- The Erg's release of the mc, after what frees cells in it (R76). -/
def State.releases (s : State) : List Turn := if s.erg.tasks.isEmpty then [] else [.event .ergRelease]

/-- The post sequencer's take comes last: it makes its comparisons after every free of the mc (R65, R69). -/
def State.takes (s : State) : List Turn := if s.erg.posts.isEmpty then [] else [.event .postSequencerTake]

def State.plan (s : State) : State :=
  let busy := s.busySeqs
  { s with
    agenda := (s.dueEvents busy ++ chosen (s.arbiter.headD 0) (s.openEvents busy)).map Turn.event ++ s.releases ++ s.issues busy ++
      s.lateTakes busy ++ s.takes
    arbiter := s.arbiter.drop 1 }

/-- One mc passes: time, the work of the units that no event names, then the plan of the next mc. -/
def State.tick (s : State) : State := (s.passTime.retryHomes.sendRecords.tryEndRestart.sweepJobs).plan

/-! ### What the outside does -/

/-- Host and scheduler memory, which the host writes through its own memory and BAR2 (R277). -/
def hostWritable (k : Nat) : Bool := decide (2 ^ 56 ≤ k) || (decide (2 ^ 41 ≤ k) && decide (k < 2 ^ 41 + 2 ^ 26))

def consMissing (n : Nat) (l : List Nat) : List Nat := if l.contains n then l else n :: l

def TlbEntry.covers (e : TlbEntry) (va : Nat) : Bool := decide (e.va ≤ va) && decide (va < e.va + e.size)

/-- A parity error in a translation cache drops the entries that hold an address, and counts as corrected where it drops one (R106, R109). -/
def State.cacheError (s : State) (c : Fin 256) (va : Nat) : State :=
  let hit := (s.mem.micro[c] ++ s.mem.cluster[clusterOf c]).any fun e => e.covers va
  let s1 := { s with mem := { s.mem with
    micro := s.mem.micro.set c (s.mem.micro[c].filter fun e => !e.covers va)
    cluster := s.mem.cluster.set (clusterOf c) (s.mem.cluster[clusterOf c].filter fun e => !e.covers va) } }
  if hit then s1.countCe 0x2C else s1

/-- The same for the remote-line cache. -/
def State.lineError (s : State) (va : Nat) : State :=
  let hit := s.fab.lines.any fun l => l.line == va / 64
  let s1 := { s with fab := { s.fab with lines := s.fab.lines.filter fun l => l.line != va / 64 } }
  if hit then s1.countCe 0x2A else s1

/-- A double-bit error hides a single-bit one. -/
def RecErr.worse (a b : RecErr) : RecErr := if a == .double then a else b

/-- An error strikes the records of an order number in one of the two Caravan SRAMs; a spilled record lies in HBM (R224). -/
def State.recordError (s : State) (inbound : Bool) (order : Nat) (e : RecErr) : State :=
  if inbound then
    { s with fab := { s.fab with inRecs := s.fab.inRecs.map fun r =>
      if r.wr.order == order then { r with err := r.err.worse e } else r } }
  else
    { s with fab := { s.fab with outRecs := s.fab.outRecs.map fun r =>
      if r.wr.order == order && !r.spilled then { r with err := r.err.worse e } else r } }

/-- What a core reads from CSRs 0x7C0 and 0x7C2 to 0x7C4: LSEND is WO and reads 0 (R5, R287). -/
def State.csrWord (s : State) (core : FwCore) (csr : Nat) : Word :=
  let l := s.mgmt.fw.links[s.linkOf core]
  match csr with
  | 0x7C2 => word (l.permits core)
  | 0x7C3 => l.status core
  | 0x7C4 => if core == .sirocco then word s.mgmt.fw.linkSel.val else 0
  | _ => 0

/-- A read of `n` bytes of scheduler memory through BAR2: a consumer of what it reads (R106, R277). -/
def State.schedRead (s : State) (off n : Nat) : State :=
  if 8 < n || 2 ^ 26 < off + n then s
  else
    let s1 := s.checkSched (schedKey off) n
    { s1 with host := { s1.host with readData := word (natOf (s1.readSched (schedKey off) n)) } }

def State.setHang (s : State) (core : FwCore) (hung : Bool) : State :=
  match core with
  | .sirocco => s.setFw { s.mgmt.fw with hungS := hung }
  | .cairn n =>
    let b := BitVec.ofNat 16 (2 ^ n.val)
    s.setFw { s.mgmt.fw with hungC := if hung then s.mgmt.fw.hungC ||| b else s.mgmt.fw.hungC &&& ~~~b }

/-- What the outside does (R91, R102, R106, R225, R240, R272, R277, R287). -/
def State.applyOutside (s : State) : Outside → State
  | .hostByte k v => if hostWritable k then s.writeBytes [(k, v, 0)] else s
  | .badGranule g =>
    if 2 ^ 42 ≤ g * 8 then s
    else { s with mem := { s.mem with bad := consMissing g s.mem.bad, soft := s.mem.soft.filter (· != g) } }
  | .badAcc c r j =>
    if 256 ≤ c || 2048 ≤ r || 256 ≤ j then s
    else
      let k := (c * 2048 + r) * 256 + j
      { s with mem := { s.mem with badAcc := consMissing k s.mem.badAcc, softAcc := s.mem.softAcc.filter (· != k) } }
  | .softGranule g =>
    if 2 ^ 42 ≤ g * 8 || s.mem.bad.contains g then s else { s with mem := { s.mem with soft := consMissing g s.mem.soft } }
  | .softAcc c r j =>
    let k := (c * 2048 + r) * 256 + j
    if 256 ≤ c || 2048 ≤ r || 256 ≤ j || s.mem.badAcc.contains k then s
    else { s with mem := { s.mem with softAcc := consMissing k s.mem.softAcc } }
  | .recordError inbound order double => s.recordError inbound order (if double then .double else .single)
  | .cacheError c va => s.cacheError c va
  | .lineError va => s.lineError va
  | .coreHang core hung => s.setHang core hung
  | .linkSelect n => s.setFw { s.mgmt.fw with linkSel := n }
  | .linkStatus core v => s.setLink (s.linkOf core) (s.mgmt.fw.links[s.linkOf core].clearStatus core v)
  | .linkAck n => { s with fab := { s.fab with unacked := s.fab.unacked.filter fun u => u.2.seqNo != n } }
  | .recordStaged order => s.markRec order true true
  | .regRead off bytes => s.hostRead off bytes
  | .schedRead off bytes => s.schedRead off bytes
  | .csrRead core csr => { s with host := { s.host with readData := s.csrWord core csr } }
  | .hostTable ctx pa v => if 2 ^ 39 ≤ pa then s else s.writeBytes [(pa, v, s.keyMat (s.ctxAt ctx).tkey)]

end Sys2Proof.Machine
end

