-- ==== Sys2Proof/Machine/Step.lean ====
section
/-! DEFINITION. One step of the machine: the next turn of the agenda, or, when the agenda is empty, the passing of an mc. -/

namespace Sys2Proof.Machine

open Host (Outcome)

/-- One sequencer fetches and executes (R45, R295). -/
def issue (s : State) : Outcome State Fault Refusal :=
  match s.fetchInstr with
  | .instr s1 i => exec i s1
  | .trap t => .next (s.takeTrap t)
  | .again s1 => .next s1
  | .stop f => .fault f

/-- A sequencer that left the ready set since its turn was planned does nothing. -/
def issueTurn (c : Fin 256) (q : Role) (s : State) : Outcome State Fault Refusal :=
  if (s.seqAt c q).status == .ready then issue { s with cell := c, role := q } else .next s

def step (s : State) : Outcome State Fault Refusal :=
  match s.agenda with
  | [] => .next s.tick
  | .issue c q :: rest => issueTurn c q { s with agenda := rest }
  | .late c q :: rest => issueTurn c q { s with agenda := rest }
  | .event i :: rest => exec i { s with agenda := rest }
  | .outside o :: rest => .next ({ s with agenda := rest }.applyOutside o)

/-- The state with an instruction of `nbits` bits stored where the next step fetches it: a CELL task whose body is that instruction
has been started on cell 0, and the sequencer on which it is legal moves next (log entry 14). -/
def State.withFetchWord (s : State) (nbits w : Nat) : State :=
  let x := w % 2 ^ nbits
  let q := match decodeTableWord nbits w with | some i => legalRole i | none => .K
  { s.withTask.withCode x with role := q, agenda := [.issue 0 q] }

end Sys2Proof.Machine
end

