-- ==== Sys2Proof/Safety.lean ====
section
/-! DEFINITION. The terms in which statements about the machine are made: what it is for an instruction to complete, what it leaves
unchanged, and the canonical form that the machine's sparse maps keep. -/

namespace Sys2Proof.Machine

/-! ### The canonical form -/

/-- Every sparse map of memory rises in its keys and lists no default: equal contents are equal data. -/
structure Canonical (s : State) : Prop where
  bytes : s.mem.bytes.wf = true
  keyTags : smWf KeyLine.clear s.mem.keyTags = true
  flags : smWf 0 s.mem.flags = true
  acc : smWf 0 s.mem.acc = true
  keys : smWf (0, 0) s.mem.keys = true

/-! ### Completing -/

/-- The instruction answers a next state, and that state is as `P` says. -/
def Completes (i : Instr) (s : State) (P : State → Prop) : Prop := ∃ t, exec i s = .next t ∧ P t

/-! ### Frames -/

/-- Every byte of the device's and the host's memory reads as before. -/
def MemSame (s t : State) : Prop := ∀ k, t.readKey k = s.readKey k

/-- Nothing changed outside the acting sequencer, apart from the watchdog's mark on its cell (R272). -/
structure OnlyMine (s t : State) : Prop where
  rest : t = { s with cells := t.cells }
  cells : ∀ c, c ≠ s.cell → t.cellAt c = s.cellAt c
  cell : t.myCell = { s.myCell with seqs := t.myCell.seqs, progress := t.myCell.progress }
  seqs : ∀ q, q ≠ s.role → t.seqAt s.cell q = s.seqAt s.cell q
  mem : MemSame s t

/-- The byte is one that a store which the acting sequencer has issued is still to write (R182). -/
def MyPending (s : State) (k : Nat) : Prop := ∃ p ∈ s.mem.pend, p.cell = s.cell ∧ p.role = s.role ∧ k ∈ p.bytes.map (·.1)

/-- Beside its own registers the acting sequencer has only performed stores that it had issued before (R184), corrected single-bit
errors that it read (R106) and filled its caches (R99). -/
structure MineAndStores (s t : State) : Prop where
  rest : t = { s with
    cells := t.cells
    mem := { s.mem with
      bytes := t.mem.bytes, keyTags := t.mem.keyTags, bad := t.mem.bad, soft := t.mem.soft, ecc := t.mem.ecc, pend := t.mem.pend
      micro := t.mem.micro } }
  cells : ∀ c, c ≠ s.cell → t.cellAt c = s.cellAt c
  cell : t.myCell = { s.myCell with seqs := t.myCell.seqs, progress := t.myCell.progress }
  seqs : ∀ q, q ≠ s.role → t.seqAt s.cell q = s.seqAt s.cell q
  mem : Canonical s → ∀ k, ¬ MyPending s k → t.readKey k = s.readKey k
  lines : Canonical s → ∀ k, (∀ j, j / 64 = k / 64 → ¬ MyPending s j) → t.lineOf k = s.lineOf k
  pend : t.mem.pend.Sublist s.mem.pend
  others : ∀ p ∈ s.mem.pend, ¬ (p.cell = s.cell ∧ p.role = s.role) → p ∈ t.mem.pend

/-- The loop-end check of R389, made with the address `next`: what the stack and PC become. -/
inductive LoopEnd : List LoopLevel → Word → List LoopLevel → Word → Prop where
  | none (next : Word) : LoopEnd [] next [] next
  | inside (l : LoopLevel) (ls : List LoopLevel) (next : Word) (h : next.toNat < l.stop.toNat) : LoopEnd (l :: ls) next (l :: ls) next
  | again (l : LoopLevel) (ls : List LoopLevel) (next : Word) (h : l.stop.toNat ≤ next.toNat) (r : l.remain - 1 ≠ 0) :
      LoopEnd (l :: ls) next ({ l with remain := l.remain - 1 } :: ls) l.start
  | ends (l : LoopLevel) (ls out : List LoopLevel) (next pc : Word) (h : l.stop.toNat ≤ next.toNat) (r : l.remain - 1 = 0)
      (more : LoopEnd ls next out pc) : LoopEnd (l :: ls) next out pc

/-- The acting sequencer has gone on past an instruction of `len` bytes: of its own registers only its g-registers and its control of
the program have changed (R389, R391). -/
structure WentOn (s t : State) (len : Nat) : Prop where
  own : t.me = { s.me with
    g := t.me.g, pc := t.me.pc, loops := t.me.loops, status := t.me.status, held := 0, latch := none, stall := none }
  next : if s.me.hnd then t.me.pc = s.me.pc + word len ∧ t.me.loops = s.me.loops
    else LoopEnd s.me.loops (s.me.pc + word len) t.me.loops t.me.pc
  status : s.myCell.stopReq = false → t.me.status = .ready

/-- Of the g-registers only `d` may have changed, and it holds `v`; a write to g0 is discarded, and g0 reads 0 (R299). -/
def RegSet (s t : State) (d : Reg) (v : Word) : Prop :=
  (d ≠ 0 → t.g d = v) ∧ t.g 0 = 0 ∧ ∀ r, r ≠ d → t.g r = s.g r

/-- No g-register has changed. -/
def RegsSame (s t : State) : Prop := ∀ r, t.g r = s.g r

/-- The frame of an instruction of four bytes whose whole effect is one register. -/
structure WroteReg (d : Reg) (v : Word) (s t : State) : Prop where
  reg : RegSet s t d v
  frame : OnlyMine s t
  went : WentOn s t 4

/-- The instruction completes, and `v` in `d` is all it leaves. -/
def Writes (i : Instr) (s : State) (d : Reg) (v : Word) : Prop := Completes i s (WroteReg d v s)

/-- The frame of an instruction of `len` bytes that leaves nothing but the address of the next one. -/
structure Passed (len : Nat) (s t : State) : Prop where
  regs : RegsSame s t
  frame : OnlyMine s t
  went : WentOn s t len

/-- An address lies in the body of a level. -/
def LoopLevel.inBody (l : LoopLevel) (a : Word) : Prop := l.start.toNat ≤ a.toNat ∧ a.toNat < l.stop.toNat

/-- What a transfer to `target` leaves of a loop stack (R390): the outermost level that it leaves ends, and every level inside it. -/
def LoopsLeft (before after : List LoopLevel) (target : Word) : Prop :=
  ∃ ended, before = ended ++ after ∧ (∀ l ∈ after, l.inBody target) ∧ ∀ l ∈ ended.getLast?, ¬ l.inBody target

/-- The frame of a transfer of control to `target` that writes `v` to a register. -/
structure Jumped (d : Reg) (v target : Word) (s t : State) : Prop where
  reg : RegSet s t d v
  frame : OnlyMine s t
  own : t.me = { s.me with
    g := t.me.g, pc := target, loops := t.me.loops, status := t.me.status, held := 0, latch := none, stall := none }
  loops : if s.me.hnd then t.me.loops = s.me.loops else LoopsLeft s.me.loops t.me.loops target
  status : s.myCell.stopReq = false → t.me.status = .ready

/-! ### Traps -/

/-- The acting sequencer can take a trap: no handler runs, it has a vector, and it holds nothing of a wait that has ended (R261, R262). -/
structure CanTrap (s : State) : Prop where
  free : s.me.hnd = false
  vector : s.me.tvec ≠ 0
  held : s.me.held = 0
  ready : s.me.status = .ready

/-- A precise trap has been taken at the instruction at `epc` (R258, R261): beside the trap registers of the acting sequencer nothing has
changed, except that reads of peers and walks that the sequencer waited for are forgotten. -/
structure TookTrap (code detail : BitVec 8) (level : BitVec 2) (eval epc : Word) (s t : State) : Prop where
  rest : t = { s with
    cells := t.cells
    fab := { s.fab with reads := t.fab.reads }
    mem := { s.mem with walks := t.mem.walks } }
  cells : ∀ c, c ≠ s.cell → t.cellAt c = s.cellAt c
  cell : t.myCell = { s.myCell with seqs := t.myCell.seqs, progress := true }
  seqs : ∀ q, q ≠ s.role → t.seqAt s.cell q = s.seqAt s.cell q
  mem : MemSame s t
  cause : t.me.cause = BitVec.ofNat 64 (2 ^ 31 + level.toNat * 2 ^ 16 + detail.toNat * 2 ^ 8 + code.toNat)
  own : t.me = { s.me with
    pc := s.me.tvec, cause := t.me.cause, epc := epc, eval := eval, eprog := 0, status := t.me.status, latch := none, stall := none
    reports := none :: s.me.reports }
  status : s.myCell.stopReq = false → t.me.status = .ready

/-- The instruction takes a precise trap with level 0 at its own address. -/
def Traps (i : Instr) (s : State) (code detail : BitVec 8) (eval : Word) : Prop :=
  Completes i s (TookTrap code detail 0 eval s.me.pc s)

/-! ### Accesses to local memory -/

/-- The acting sequencer's access of kind `k` to `n` bytes at `va`, in stream `st`, meets every check of R96 with what its caches hold, and
its bytes lie in local memory from key `key` on, under key material `mat`; a request slot is free (R101). -/
structure Granted (s : State) (st : Fin 16) (k : AccKind) (va n key mat : Nat) : Prop where
  aligned : va % n = 0
  slot : s.slotsFull = false
  plan : ∃ pol, s.planAccess (s.seqAgent st) k none va n = .ok s [⟨va, n, .mem key mat pol⟩]

/-- No byte of the access lies in an uncorrectable granule (R106). -/
def Readable (s : State) (key n : Nat) : Prop := ∀ i < n, s.isBad (key + i) = false

/-- No byte of the access lies in an uncorrectable granule, or the access covers its one granule whole (R107). -/
def Writable (s : State) (key n : Nat) : Prop := Readable s key n ∨ (n = 8 ∧ key % 8 = 0)

/-- Memory as an access of the acting sequencer finds it: with its earlier stores performed that R184 orders before the access. -/
def SeenBy (s : State) (st : Fin 16) (key n : Nat) : State := s.performBefore (some st) ((List.range n).map (key + ·))

/-- The little-endian number that `n` bytes spell, read under key material `mat` (R2, R104). -/
def valueAt (s : State) (key n mat : Nat) : Nat := natOf ((List.range n).map fun i => s.readUnder (key + i) mat)

/-- The store of the acting sequencer that writes the low `n` bytes of `v`. -/
def storeOf (s : State) (st : Fin 16) (va key n mat : Nat) (v : Word) : PStore :=
  { id := s.clk.nextId, cell := s.cell, role := s.role, stream := st, ctx := s.ctxIx
    bytes := (List.range n).map fun i => (key + i, v.extractLsb' (8 * i) 8, mat), va := va }

/-- The frame of a store: one more store is to be performed, and every byte of memory reads as before. -/
structure Stored (p : PStore) (s t : State) : Prop where
  pend : t.mem.pend = s.mem.pend ++ [p]
  rest : t = { s with cells := t.cells, clk := t.clk, mem := { s.mem with pend := t.mem.pend } }
  frame : OnlyMine { s with clk := t.clk, mem := { s.mem with pend := t.mem.pend } } t
  regs : RegsSame s t
  went : WentOn s t 4

/-- R327: the integer operations of the atomics on numbers of `n` bits; the f32 operations are those of the Vector unit. -/
def atomicInt : AtOp → Nat → Nat → Nat → Option Nat
  | .swap, _, y, n => some (y % 2 ^ n)
  | .add, x, y, n => some ((x + y) % 2 ^ n)
  | .and, x, y, _ => some (x &&& y)
  | .or, x, y, _ => some (x ||| y)
  | .xor, x, y, _ => some (x ^^^ y)
  | .min, x, y, n => some (if (BitVec.ofNat n x).toInt ≤ (BitVec.ofNat n y).toInt then x else y)
  | .max, x, y, n => some (if (BitVec.ofNat n x).toInt ≥ (BitVec.ofNat n y).toInt then x else y)
  | .minn, x, y, _ => some (if x ≤ y then x else y)
  | .maxn, x, y, _ => some (if x ≥ y then x else y)
  | .fadd, _, _, _ => none
  | .fmin, _, _, _ => none
  | .fmax, _, _, _ => none

/-! ### Waits -/

/-- The acting sequencer stands at its instruction and waits, and nothing else of it has changed. -/
structure LeftReady (w : Wait) (s t : State) : Prop where
  own : t.me = { s.me with status := .waiting w, stall := none }
  frame : OnlyMine { s with agenda := t.agenda } t

/-! ### Reading operands -/

/-- An operand read as R8's Sext of 64 bits, or as Zext for the `.n` forms. -/
def readSigned (natural : Bool) (w : Word) : Int := if natural then (w.toNat : Int) else w.toInt

/-- R300, R324: when a condition code holds of two 64-bit values. -/
def holdsOn : Cond → Word → Word → Prop
  | .eq, x, y => x = y
  | .ne, x, y => x ≠ y
  | .lt, x, y => x.toInt < y.toInt
  | .ge, x, y => y.toInt ≤ x.toInt
  | .ltn, x, y => x.toNat < y.toNat
  | .gen, x, y => y.toNat ≤ x.toNat

/-! ### Roles and tokens -/

/-- Which sequencers an instruction is legal on (R23, and R301 for the special registers that only C may name). -/
def legalOn : Instr → Role → Bool
  | .fmtq .., q | .carm .., q => q == .K
  | .lda .., q | .ldb .., q | .ldv .., q | .vgath .., q | .nmv .., q => q == .L
  | .vadd .., q | .vsub .., q | .vmul .., q | .vfma .., q | .vmin .., q | .vmax .., q | .vabs .., q | .vneg .., q | .vand .., q
  | .vor .., q | .vxor .., q | .vshl .., q | .vshr .., q | .vsel .., q | .vmov .., q | .vcmp .., q | .vcvt .., q | .vwid .., q
  | .vnar .., q | .vsf .., q | .vred .., q | .vbc .., q | .viota .., q | .vperm .., q | .vsetl .., q | .vpart .., q
  | .mclr .., q | .mupd .., q | .mupdw .., q | .mmrg .., q | .mget .., q | .mnorm .., q | .mld .., q | .mst .., q
  | .mma .., q | .chain .., q | .azero .., q => q == .C
  | .drain .., q | .stv .., q | .vscat .., q => q == .S
  | .agld .., q | .agst .., q => q != .C
  | .rds _ .fpctl, q | .rds _ .fpflg, q | .rds _ .vl, q | .rds _ .accp, q => q == .C
  | .wrs .fpctl _, q | .wrs .fpflg _, q | .wrs .vl _, q | .wrs .accp _, q => q == .C
  | _, _ => true

/-- The mask of a sequencer names another one: bit i names the i-th other sequencer in ascending SEQ order (R27). -/
def MaskNames (q : Role) (mask : BitVec 3) (r : Role) : Prop := ∃ i : Fin 3, (otherRoles q)[i.val]? = some r ∧ mask.getLsbD i.val = true

/-- Tokens waiting on the queue from one sequencer of the acting cell to another (R25). -/
def State.tokensOn (s : State) (a b : Role) : Nat := s.myCell.tokens[tokenQueue a b]

/-- Gives of the acting cell reserved and not yet made on that queue (R30). -/
def State.reservedOn (s : State) (a b : Role) : Nat := s.myCell.reserved[tokenQueue a b]

/-- The state as it would be with the tokens of the acting cell as another state has them. -/
def withTokensOf (t s : State) : State := s.setMyCell { s.myCell with tokens := t.myCell.tokens, reserved := t.myCell.reserved }

/-! ### Flags -/

/-- The address lies on the device page, a cluster page or a cell page of the flag aperture (R199). -/
def OnFlagPage (a : Word) : Prop := 0xFFFFFF0000000000 ≤ a.toNat ∧ a.toNat < 0xFFFFFF00000C0000

/-- The word is the second one of an object that BINIT has made: its WAITERS and AH are the barrier unit's own (R205). -/
def IsBarrierWord (s : State) (ctx : Fin 64) (a : Nat) : Prop := s.isObj ctx a = true ∧ flagKey ctx a % 4 = 1

/-- No store of the acting sequencer is still to be performed (R186, R187). -/
def AllPerformed (s t : State) : Prop := ∀ p ∈ t.mem.pend, ¬ (p.cell = s.cell ∧ p.role = s.role)

/-- A sequencer's own write of flags: it goes on with its own g-registers but for `d`, its earlier stores are performed (R187), and every
flag of every context whose key does not lie in the list is as before. -/
structure FlagFrame (keys : List Nat) (d : Reg) (v : Word) (s t : State) : Prop where
  reg : RegSet s t d v
  pc : s.me.hnd = false → LoopEnd s.me.loops (s.me.pc + 4) t.me.loops t.me.pc
  mem : ∀ k, ¬ MyPending s k → t.readKey k = s.readKey k
  performed : AllPerformed s t
  flags : ∀ c a, flagKey c a ∉ keys → t.flagAt c a = s.flagAt c a
  seqs : ∀ c q, ¬ (c = s.cell ∧ q = s.role) → t.seqAt c q = { s.seqAt c q with status := (t.seqAt c q).status }
  own : t.me = { s.me with
    g := t.me.g, pc := t.me.pc, loops := t.me.loops, status := t.me.status, held := 0, latch := none, stall := none }
  rest : t.erg = s.erg ∧ t.ctxs = s.ctxs ∧ t.host = s.host ∧ t.agenda = s.agenda

/-! ### Posts and packets -/

/-- A request slot is free (R101), the acting sequencer's load of `n` bytes at `va` in stream 0 is granted once its earlier stores are
performed (R369, R417), no byte of it lies in an uncorrectable granule, and the bytes are `bs`. -/
def Captured (s : State) (va n : Nat) (bs : List Byte) : Prop :=
  s.slotsFull = false ∧ ∃ key mat pol, s.performMine.planAccess (s.seqAgent 0) .read none va n = .ok s.performMine [⟨va, n, .mem key mat pol⟩] ∧
    (∀ i < n, s.isBad (key + i) = false) ∧ bs = (List.range n).map fun i => s.performMine.readUnder (key + i) mat

/-- One operation more is queued at the post sequencer, and the acting sequencer waits for its result in `d` (R57, R69). -/
structure PostQueued (d : Reg) (op : PostOp) (wait : Bool) (s t : State) : Prop where
  post : t.erg = { s.erg with
    posts := s.erg.posts ++ [⟨s.clk.nextId, .seq s.cell s.role d, s.ctxIx, op, wait, s.clk.cycle.toNat, s.me.wintmo.toNat, true, none, 0, [], none⟩] }
  clk : t.clk = { s.clk with nextId := s.clk.nextId + 1 }
  own : t.me = { s.me with status := .waiting (.post s.clk.nextId), stall := none }
  frame : MineAndStores { s with erg := t.erg, clk := t.clk } t

/-- A packet, numbered by the device, has left it on a link that a live next hop of its destination names, on the virtual channel of its
class that its hops so far name and with one hop more, and stays unacknowledged until the next device has it (R239, R240). Nothing else has changed. -/
def Left (p : Packet) (s t : State) : Prop :=
  ∃ l ∈ s.liveHops p.dst, t = { s with
    clk := { s.clk with nextId := s.clk.nextId + 1 }
    fab := { s.fab with
      out := (l.val, clsCode p.cls * 5 + p.hops, { p with seqNo := s.clk.nextId, hops := p.hops + 1 }) :: s.fab.out
      unacked := s.fab.unacked ++ [(l.val, { p with seqNo := s.clk.nextId })] } }

/-- The packet's destination is another device of its job, to which a live link leads. -/
def Routed (s : State) (p : Packet) : Prop := s.isMine p = false ∧ s.liveHops p.dst ≠ []

/-! ### Steps -/

/-- R232: a conflict under FAULT waits to be reported to the acting cell, the OWNER of its context. -/
def ConflictDue (s : State) : Prop := s.myCtx.conflicts ≠ [] ∧ s.cell.val = s.myCtx.owner

/-- Step `t` comes before step `u` (R212). -/
def ComesBefore (t u : BitVec 32) : Prop := 1 ≤ (u - t).toNat ∧ (u - t).toNat < 2 ^ 31

/-! ### Vector operands -/

/-- R89, R149, R421: the fragment that FRAG of ACCP names can be read: its row is the task's, no earlier MMA is still to write it, and none
of its columns is uncorrectable. -/
structure FragmentReady (s : State) : Prop where
  region : s.myCell.accFirst ≤ s.myCell.accp.toNat / 2 ∧ s.myCell.accp.toNat / 2 < s.myCell.accEnd
  written : s.rowBusy s.cell (s.myCell.accp.toNat / 2) = false
  good : s.badCol s.cell (s.myCell.accp.toNat / 2) (128 * (s.myCell.accp.toNat % 2)) 128 = none

/-- R166, R169: what the source operand with code `c` reads as a group of `k` registers: registers, the entries at the head of ld0 or ld1,
or a fragment. -/
inductive Reads (s : State) (c k : Nat) : List VReg → Prop where
  | regs (fit : k = 1 ∨ c % k = 0) (h : c + k ≤ 24) : Reads s c k ((s.myCell.v.toList.drop c).take k)
  | queue (q : Fin 4) (two : q.val < 2) (e : c = 24 + q.val) (out : List VReg)
      (h : (s.myCell.dq[q].take k).map (·.data) = out.map some) (len : out.length = k) : Reads s c k out
  | frag (e : c = 28 ∨ c = 29) (one : k = 1) (ready : FragmentReady s) :
      Reads s c k [(s.accRow s.cell (s.myCell.accp.toNat / 2)).extractLsb' (4096 * (s.myCell.accp.toNat % 2)) 4096]

/-- R36, R166, R169: the destination operand with code `c` can take `k` registers: registers, or room in sd0 or sd1. -/
inductive Takes (s : State) (c k : Nat) : Prop where
  | regs (fit : k = 1 ∨ c % k = 0) (h : c + k ≤ 24)
  | queue (q : Fin 4) (two : 2 ≤ q.val) (e : c = 22 + q.val) (room : s.myCell.dq[q].length + k ≤ 8)

/-- R38: entries that an instruction pops from the queue with code `c`: each queue once, by the largest group that names it. -/
def popped (srcs : List (Nat × Nat)) (c : Nat) : Nat := ((srcs.filter fun x => x.1 == c).map (·.2)).foldl max 0

/-- What a vector instruction leaves: its result in its destination, its pops, one fragment more where a source names code 29 (R167), its
flags in FPFLG (R127), and nothing else, but that the single-bit errors of a fragment that it reads are corrected and counted (R106). -/
structure VectorDone (srcs : List (Nat × Nat)) (dst : Option Nat) (out : List VReg) (flags : BitVec 6) (s t : State) : Prop where
  regs : RegsSame s t
  went : WentOn s t 4
  v : ∀ i : Fin 24, t.myCell.v[i] =
    if ∃ c, dst = some c ∧ c ≤ i.val ∧ i.val < c + out.length then out[i.val - dst.getD 0]! else s.myCell.v[i]
  pops : ∀ q : Fin 4, q.val < 2 → t.myCell.dq[q] = s.myCell.dq[q].drop (popped srcs (24 + q.val))
  push : ∀ q : Fin 4, 2 ≤ q.val →
    t.myCell.dq[q].map (·.data) = s.myCell.dq[q].map (·.data) ++ (if dst = some (22 + q.val) then out.map some else [])
  accp : t.myCell.accp = if srcs.any (fun x => x.1 == 29) then s.myCell.accp + 1 else s.myCell.accp
  flags : t.myCell.fpflg = s.myCell.fpflg ||| flags
  frame : OnlyMine
    { s.setMyCell { s.myCell with v := t.myCell.v, dq := t.myCell.dq, accp := t.myCell.accp, fpflg := t.myCell.fpflg } with
      clk := { s.clk with nextId := t.clk.nextId }, mem := { s.mem with softAcc := t.mem.softAcc, ecc := t.mem.ecc } } t
  errors : (∀ x ∈ srcs, x.1 ≠ 28 ∧ x.1 ≠ 29) ∨ s.mem.softAcc = [] → t.mem = s.mem

/-- The value of an integer element (R110). -/
def laneInt (ty x : Nat) : Int := if ty % 2 = 0 then (BitVec.ofNat (tyBits ty) x).toInt else x

/-- An integer result as an element: modulo 2^N, or held at the ends of its type under `.sat` (R111). -/
def laneClose (ty : Nat) (sat : Bool) (v : Int) : Nat :=
  let n := tyBits ty
  let lo : Int := if ty % 2 = 0 then -2 ^ (n - 1) else 0
  let hi : Int := if ty % 2 = 0 then 2 ^ (n - 1) - 1 else 2 ^ n - 1
  (BitVec.ofInt n (if sat then (if v < lo then lo else if hi < v then hi else v) else v)).toNat

/-- The lanes 0 to VL − 1 of one register (R163, R165): `lane` gives each with its flags; the bits beyond are 0. -/
def lanesOf (n vl : Nat) (lane : Nat → Nat × BitVec 6) : VReg := regOf n ((List.range vl).map fun i => (lane i).1)

def flagsOf (vl : Nat) (lane : Nat → Nat × BitVec 6) : BitVec 6 := (List.range vl).foldl (fun a i => a ||| (lane i).2) 0

/-! ### Moments, tables and rows -/

/-- What a moment instruction leaves: its moment registers, its pops, one fragment more where a source names code 29, and nothing else. -/
structure MomentDone (srcs : List (Nat × Nat)) (m : Vector Moment 16) (s t : State) : Prop where
  regs : RegsSame s t
  went : WentOn s t 4
  m : t.myCell.m = m
  pops : ∀ q : Fin 4, t.myCell.dq[q] = s.myCell.dq[q].drop (if q.val < 2 then popped srcs (24 + q.val) else 0)
  accp : t.myCell.accp = if srcs.any (fun x => x.1 == 29) then s.myCell.accp + 1 else s.myCell.accp
  frame : OnlyMine
    { s.setMyCell { s.myCell with m := t.myCell.m, dq := t.myCell.dq, accp := t.myCell.accp } with
      mem := { s.mem with softAcc := t.mem.softAcc, ecc := t.mem.ecc } } t
  errors : (∀ x ∈ srcs, x.1 ≠ 28 ∧ x.1 ≠ 29) ∨ s.mem.softAcc = [] → t.mem = s.mem

/-- The acting sequencer's access in stream `st` to `n` bytes at `va`, under one box slot or under all, meets every check of R96 with what
its caches hold, and its bytes lie in local memory from key `key` on, under key material `mat`. -/
def GrantedIn (s : State) (st : Fin 16) (box : Option Nat) (k : AccKind) (va n key mat : Nat) : Prop :=
  ∃ pol, s.planAccess (s.seqAgent st) k box va n = .ok s [⟨va, n, .mem key mat pol⟩]

/-- The acting sequencer's store of `bs` in stream 0. -/
def storeBytes (s : State) (va key mat : Nat) (bs : List Byte) : PStore :=
  { id := s.clk.nextId, cell := s.cell, role := s.role, stream := 0, ctx := s.ctxIx
    bytes := (List.range bs.length).map fun i => (key + i, bs.getD i 0, mat), va := va }

/-! ### Engine commands -/

/-- R29, R30, R325: nothing keeps the acting sequencer from issuing a command with this engine word: no fault is pending, its takes find
their tokens, its gives find room, and the engine's queue has room. -/
structure CanIssue (eng : Eng) (e : EngWord) (s : State) : Prop where
  pending : s.me.pending = []
  held : s.me.held = 0
  takes : ∀ r, MaskNames s.role e.take r → 1 ≤ s.tokensOn r s.role
  gives : ∀ r, MaskNames s.role e.give r → s.tokensOn s.role r + s.reservedOn s.role r < 255
  room : s.queueLen eng (unitOf eng s.cell) < 16

/-- A command that waits with its takes made (R265, R325): its tokens are taken and held, nothing else of the sequencer has changed, and the
queues, rows and entries that it is to take stand as they were. -/
structure WaitsHolding (e : EngWord) (w : Wait) (s t : State) : Prop where
  own : t.me = { s.me with status := .waiting w, stall := none, held := e.take }
  taken : ∀ a b, a ≠ b → (b = s.role ∧ MaskNames s.role e.take a → t.tokensOn a b = s.tokensOn a b - 1) ∧
    (¬ (b = s.role ∧ MaskNames s.role e.take a) → t.tokensOn a b = s.tokensOn a b) ∧ t.reservedOn a b = s.reservedOn a b
  frame : OnlyMine (withTokensOf t s) t

/-- The command that the acting sequencer issues (R139, R298): `n` numbers have been given out before its own. -/
def commandOf (s : State) (eng : Eng) (e : EngWord) (op : CmdOp) (n : Nat) : Cmd :=
  { id := s.clk.nextId + n, eng := eng, unit := unitOf eng s.cell, owner := .seq s.cell s.role, stamp := s.myCell.task.getD 0
    ctx := s.ctxIx, stream := e.st, guard := e.guard, gives := e.give, step := s.myCtx.step, boxes := s.myCell.boxes, op := op
    state := .queued, prog := 0, stalled := 0 }

/-- A command has entered its engine's queue (R29, R325): its takes are made and its gives reserved, the sequencer's earlier stores are
performed (R186), `y` is the acting cell with what else the issue changes, and nothing else has changed. -/
structure Issued (eng : Eng) (e : EngWord) (op : CmdOp) (n : Nat) (y : Cell) (s t : State) : Prop where
  cmds : t.cmds = s.cmds ++ [commandOf s eng e op n]
  regs : RegsSame s t
  went : WentOn s t 8
  performed : AllPerformed s t
  taken : ∀ a b, a ≠ b → (b = s.role ∧ MaskNames s.role e.take a → t.tokensOn a b = s.tokensOn a b - 1) ∧
    (¬ (b = s.role ∧ MaskNames s.role e.take a) → t.tokensOn a b = s.tokensOn a b)
  reserved : ∀ a b, a ≠ b → (a = s.role ∧ MaskNames s.role e.give b → t.reservedOn a b = s.reservedOn a b + 1) ∧
    (¬ (a = s.role ∧ MaskNames s.role e.give b) → t.reservedOn a b = s.reservedOn a b)
  frame : MineAndStores
    { withTokensOf t (s.setMyCell y) with cmds := t.cmds, clk := { s.clk with nextId := s.clk.nextId + n + 1 } } t

/-- A request slot is free (R101), and the 64 bytes at an aligned address are granted to the command's stream and good, and read as the
image `d` (R344, R402). -/
def Described (s : State) (r : Reg) (e : EngWord) (d : AgImage) : Prop :=
  (s.g r).toNat % 64 = 0 ∧ s.slotsFull = false ∧ ∃ key mat, GrantedIn s e.st none .read (s.g r).toNat 64 key mat ∧ Readable s key 64 ∧
    d = BitVec.ofNat 512 (valueAt (SeenBy s e.st key 64) key 64 mat)

/-- The queued command `m` can start next (R77, R145, R156, R241): of the commands before it none that must start first is still queued,
and none of its task on its engine is held at a fault. -/
def Foremost (s : State) (m : Cmd) : Prop :=
  m.state = .queued ∧ ∃ pre post, s.cmds = pre ++ m :: post ∧ ∀ x ∈ pre, x.id ≠ m.id ∧
    (x.sameLine m = true → x.state ≠ .queued ∧ x.state ≠ .guarded) ∧
    (x.eng = m.eng → x.unit = m.unit → x.stamp = m.stamp → x.state ≠ .faulted)

/-- The command with this number has started and carries the operation. -/
def Runs (s : State) (m : Cmd) : Prop := s.cmdOf m.id = some m ∧ m.state = .started

/-- The frame of an event of the command `m`: beside memory, cell `c`, the command and what is on its way for it, nothing changes. -/
structure UnitFrame (m : Cmd) (c : Fin 256) (s t : State) : Prop where
  rest : t = { s with mem := t.mem, cells := t.cells, cmds := t.cmds, fab := { s.fab with reads := t.fab.reads } }
  cells : ∀ d, d ≠ c → t.cellAt d = s.cellAt d
  cmds : ∀ i, i ≠ m.id → t.cmdOf i = s.cmdOf i

/-- What the completion of the command `m` leaves of a state (R29, R43): the command is gone, its gives are made, or its engine task is
ending. Beside that, what was on its way for it is forgotten, and in its cell FPFLG collects the flags of a CHAIN (R129) and the ring rows
of an MMA become free (R135). -/
structure Completed (m : Cmd) (u t : State) : Prop where
  gone : t.cmds = u.cmds.filter fun x => x.id != m.id
  rest : t = { u with
    cmds := t.cmds, cells := t.cells, mem := { u.mem with walks := t.mem.walks }, fab := { u.fab with reads := t.fab.reads }
    erg := { u.erg with tasks := t.erg.tasks } }
  cells : ∀ c, (∀ q, m.owner ≠ .seq c q) → c ≠ m.cellOf → t.cellAt c = u.cellAt c
  seqs : ∀ c q, t.seqAt c q = u.seqAt c q
  gives : ∀ c q, m.owner = .seq c q → ∀ a b, a ≠ b →
    (a = q ∧ MaskNames q m.gives b → (t.cellAt c).tokens[tokenQueue a b] = (u.cellAt c).tokens[tokenQueue a b] + 1 ∧
      (t.cellAt c).reserved[tokenQueue a b] = (u.cellAt c).reserved[tokenQueue a b] - 1) ∧
    (¬ (a = q ∧ MaskNames q m.gives b) → (t.cellAt c).tokens[tokenQueue a b] = (u.cellAt c).tokens[tokenQueue a b] ∧
      (t.cellAt c).reserved[tokenQueue a b] = (u.cellAt c).reserved[tokenQueue a b])
  flags : ∀ d k tA tB tD flg, m.op = .chain d k tA tB tD flg → (t.cellAt m.cellOf).fpflg = (u.cellAt m.cellOf).fpflg ||| flg
  task : ∀ k x, m.owner = .task k → u.taskOf k = some x → t.taskOf k = some { x with state := .ending }

/-- What the discarding of a command of sequencer `q` leaves of its cell (R29, R386): its gives are made, and the entries that it had
reserved in an inbound queue and not filled hold zero bytes. -/
structure GivenUp (m : Cmd) (q : Role) (x y : Cell) : Prop where
  gives : ∀ a b, a ≠ b →
    (a = q ∧ MaskNames q m.gives b → y.tokens[tokenQueue a b] = x.tokens[tokenQueue a b] + 1 ∧
      y.reserved[tokenQueue a b] = x.reserved[tokenQueue a b] - 1) ∧
    (¬ (a = q ∧ MaskNames q m.gives b) → y.tokens[tokenQueue a b] = x.tokens[tokenQueue a b] ∧
      y.reserved[tokenQueue a b] = x.reserved[tokenQueue a b])
  filled : ∀ ids, (∃ n t, m.op = .ldv n t ids) ∨ (∃ n t b ty, m.op = .vgath n t b ty ids) → ∀ i : Fin 4,
    y.dq[i] = x.dq[i].map fun e => if e.id ∈ ids ∧ e.data = none then { e with data := some 0 } else e
  queues : m.op.isPush = false → y.dq = x.dq

/-- The command `m` of sequencer `q` of cell `c` has been discarded (R29, R156, R386): it is gone, and the ring rows that only it kept are
free. What was on its way for it is forgotten, and nothing else has changed. -/
structure Discarded (m : Cmd) (c : Fin 256) (q : Role) (s t : State) : Prop where
  gone : t.cmds = s.cmds.filter fun x => x.id != m.id
  rest : t = { s with
    cmds := t.cmds, cells := t.cells, mem := { s.mem with walks := t.mem.walks }, fab := { s.fab with reads := t.fab.reads } }
  cells : ∀ d, d ≠ c → t.cellAt d = s.cellAt d
  cell : t.cellAt c = { s.cellAt c with
    tokens := (t.cellAt c).tokens, reserved := (t.cellAt c).reserved, dq := (t.cellAt c).dq, ring := (t.cellAt c).ring, progress := true }
  left : GivenUp m q (s.cellAt c) (t.cellAt c)
  ring : (t.cellAt c).ring =
    if m.op.isMma then (s.cellAt c).ring.filter fun r => !t.rowFree c r.1 else (s.cellAt c).ring

/-- The last unit of the command `m` has been done, which left `u`, and the command has completed with the operation `op`. -/
def CompletedWith (m : Cmd) (u : State) (op : CmdOp) (t : State) : Prop :=
  ∃ p, Completed { m with prog := p, op := op, stalled := 0 } u t

/-! ### The post sequencer and the Erg -/

/-- The operation `p` of the post sequencer is over: it is gone from the queue, and sequencer `q` of cell `c`, which waited for it, has its
result `v` in `d` and goes on (R57, R72). `u` is the state with all else that the operation leaves. -/
def PostDone (p : PostReq) (c : Fin 256) (q : Role) (d : Reg) (v : Word) (u t : State) : Prop :=
  ∃ w, t = { w with cell := u.cell, role := u.role } ∧
    WroteReg d v { u with erg := { u.erg with posts := u.erg.posts.filter fun x => x.id != p.id }, cell := c, role := q } w

/-- No flag but those with the given keys has changed, in any context. -/
def FlagsKept (keys : List Nat) (s t : State) : Prop := ∀ c a, flagKey c a ∉ keys → t.flagAt c a = s.flagAt c a

/-- R66: the version `v` to which the boxes `mine` of a new task on frame `f` are bound: the other one where the frame can be renamed, a box
in flight on the current version conflicts, every box of the task overwrites the frame whole, and nothing in flight holds the other version. -/
def Bound (s : State) (f : Frame) (mine : List TaskBox) (v : Nat) : Prop :=
  let held := fun (n : Nat) (P : TaskBox → Prop) => ∃ e ∈ s.erg.tasks, ∃ b ∈ e.boxes, b.frame = f.id ∧ b.version = n ∧ P b
  let renames := f.desc.alt ≠ 0 ∧ (∃ a ∈ mine, held f.current fun b => boxConflict { a with version := f.current } b = true) ∧
    (∀ a ∈ mine, a.mode = .WOV) ∧ ¬ held (1 - f.current) fun _ => True
  (renames → v = 1 - f.current) ∧ (¬ renames → v = f.current)

/-! ### The host's queues -/

/-- Entry CONSUMED + 1 of the queue's ring holds the command `op` and nothing keeps it from being consumed: the queue is enabled and idle,
no trigger goes first, the sequence number fits, no reserved byte is set, and an administrative command stands on an administrative queue
(R280 to R282, R285). -/
structure NextIs (s : State) (q : Fin 64) (op : Nat) (e : List Byte) : Prop where
  enabled : s.queueOpen q = true
  trig : (s.queueAt q).dueTrig = none
  rung : (s.queueAt q).consumed ≠ (s.queueAt q).doorbell
  entry : e = s.nextEntry q
  number : natAt e 0 4 = ((s.queueAt q).consumed + 1).toNat
  code : natAt e 4 4 = op
  legal : 1 ≤ op ∧ op ≤ 14
  zero : natAt e (8 + 8 * operandWords op) 64 = 0
  admin : adminOp op = true → (s.queueAt q).admin = true

/-- The command of queue `q` has completed with `v` in the state `u` (R283): a record of 16 bytes stands at CBASE + 16 × (records so far mod
2^LOGN) with the SEQ of the entry that was read last, COMPLETED is CONSUMED, the queue's vector is raised, and nothing else of `u` has changed. -/
structure HostAnswered (q : Fin 64) (v : Word) (u t : State) : Prop where
  rest : t = { u with
    mem := { u.mem with bytes := t.mem.bytes, keyTags := t.mem.keyTags, bad := t.mem.bad, soft := t.mem.soft }
    host := { u.host with queues := t.host.queues } }
  queue : t.queueAt q = { u.queueAt q with
    completed := (u.queueAt q).consumed, nrec := (u.queueAt q).nrec + 1, busy := .none, msix := (u.queueAt q).msix + 1 }
  others : ∀ r, r ≠ q → t.queueAt r = u.queueAt r
  record : Canonical u → ∀ i < 16,
    t.readKey (hostKey ((u.queueAt q).cbase.toNat + (u.queueAt q).nrec % 2 ^ (u.queueAt q).logn * 16 + i)) =
      (bytesOf 4 (u.queueAt q).entry.toNat ++ bytesOf 4 0 ++ bytesOf 8 v.toNat).getD i 0
  mem : Canonical u → ∀ k, (∀ i < 16, k ≠ hostKey ((u.queueAt q).cbase.toNat + (u.queueAt q).nrec % 2 ^ (u.queueAt q).logn * 16 + i)) →
    t.readKey k = u.readKey k

/-! ### Packets that leave, and pre-emption -/

/-- A packet, numbered by the device, is on its way (R238 to R240): to this device itself it arrives next; else it has left on a link that a
live next hop names; where no live hop exists it is held on no link. Nothing else has changed. -/
def Sent (p : Packet) (u t : State) : Prop :=
  let r := { p with seqNo := u.clk.nextId }
  let clk := { u.clk with nextId := u.clk.nextId + 1 }
  (u.isMine r = true → t = { u with clk := clk, agenda := u.agenda ++ [.event (arrivalOf r)] }) ∧
  (u.isMine r = false → u.liveHops p.dst ≠ [] → Left p u t) ∧
  (u.isMine r = false → u.liveHops p.dst = [] → t = { u with clk := clk, fab := { u.fab with unacked := u.fab.unacked ++ [(36, r)] } })

/-- The packets are on their way, one after the other. -/
inductive SentAll : List Packet → State → State → Prop where
  | nil (s : State) : SentAll [] s s
  | cons (p : Packet) (ps : List Packet) (s u t : State) (h : Sent p s u) (r : SentAll ps u t) : SentAll (p :: ps) s t

/-- One event more stands in the Sandglass (R293) and is signalled (log entry 41), and nothing else has changed. -/
def Logged (type source detail : Nat) (payload : Word) (s t : State) : Prop :=
  t = { s with mgmt := { s.mgmt with
    sand := keepLast 8192 (s.mgmt.sand ++
      [⟨s.mgmt.sandCount, s.clk.fs / 1000000, BitVec.ofNat 64 (type + source * 2 ^ 16 + detail * 2 ^ 28), payload⟩])
    sandCount := s.mgmt.sandCount + 1
    irq := s.mgmt.irq + 1 } }

/-- A pre-emption of the running CELL task `x` of cell `c` has begun with save slot `k` for requester `q` (R268): each of its sequencers
that stands at a stopping point has stopped there, with the tokens that it had taken put back, and its registers are as before. The tokens
put back may start or discard commands that wait for them. A bounded wait is noted, so that it can go on as if nothing had been asked. -/
structure Asked (x : Task) (c : Fin 256) (k : Nat) (q : Option (Fin 64)) (s t : State) : Prop where
  rest : t = { s with
    cells := t.cells, ctxs := t.ctxs, cmds := t.cmds, mgmt := { s.mgmt with sand := t.mgmt.sand, sandCount := t.mgmt.sandCount, irq := t.mgmt.irq }
    mem := { s.mem with flags := t.mem.flags, walks := t.mem.walks }, fab := { s.fab with reads := t.fab.reads }
    erg := { s.erg with tasks := t.erg.tasks }, col := { s.col with runs := t.col.runs }, clk := { s.clk with nextId := t.clk.nextId } }
  tasks : t.erg.tasks = s.erg.tasks.map fun y => if y.stamp = x.stamp then { x with req := some ⟨k, s.clk.fs, none, q⟩ } else y
  ctxs : t.ctxs = s.ctxs.set x.ctx { s.ctxAt x.ctx with usedSlots := k :: (s.ctxAt x.ctx).usedSlots }
  asks : (t.cellAt c).stopReq = true
  stops : ∀ r, (s.seqAt c r).atStop = true → t.seqAt c r = { s.seqAt c r with
    status := .stopped, held := 0, latch := none, paused := (s.seqAt c r).status.wait?.bind Wait.noted }
  runs : ∀ d r, ¬ (d = c ∧ (s.seqAt c r).atStop = true) → t.seqAt d r = { s.seqAt d r with status := (t.seqAt d r).status }

/-- The task can be pre-empted now with save slot `k`: it runs on a cell, no pre-emption of it is in progress, and `k` is the lowest free
slot of its context (R268). -/
structure CanSave (x : Task) (k : Nat) (s : State) : Prop where
  runs : x.state = .running ∧ x.kind = .cell ∧ x.req = none
  slot : k < (s.ctxAt x.ctx).slots ∧ k ∉ (s.ctxAt x.ctx).usedSlots ∧ ∀ j < k, j ∈ (s.ctxAt x.ctx).usedSlots

/-- Nothing of the task is left in a unit: no command of it, and no cell that it occupies (R282). -/
def Gone (stamp : Nat) (s : State) : Prop :=
  s.taskOf stamp = none ∧ (∀ m ∈ s.cmds, m.stamp ≠ stamp) ∧ ∀ c, (s.cellAt c).task ≠ some stamp

/-! ### Collective runs -/

/-- The run stands at a step of the wanted kind (R244). -/
def StandsAt (s : State) (r : Run) (w : Word) (kind : Nat) : Prop :=
  s.runOf r.id = some r ∧ r.prog[r.pc]? = some w ∧ w.toNat / 2 ^ 60 = kind

/-- Going on after the step at PC (R246): a LOOP whose last step it is runs its body again with its counter one higher, or ends with the
counter at 0. -/
inductive PastStep : Run → Run → Prop where
  | on (r : Run) (h : ∀ l ∈ r.loops.head?, l.last ≠ r.pc) : PastStep r { r with wait := none, stalled := 0, pc := r.pc + 1 }
  | again (r : Run) (l : CollLoop) (ls : List CollLoop) (h : r.loops = l :: ls) (e : l.last = r.pc)
      (n : (if l.isJ then r.j else r.i) + 1 < l.count) :
      PastStep r { r with
        wait := none, stalled := 0, pc := l.first, i := if l.isJ then r.i else r.i + 1, j := if l.isJ then r.j + 1 else r.j }
  | ends (r u : Run) (l : CollLoop) (ls : List CollLoop) (h : r.loops = l :: ls) (e : l.last = r.pc)
      (n : l.count ≤ (if l.isJ then r.j else r.i) + 1)
      (more : PastStep { r with loops := ls, i := if l.isJ then r.i else 0, j := if l.isJ then 0 else r.j } u) : PastStep r u

/-- A packet of a run to a rank of its team; the own rank is reached without a link (R243, R255). -/
def CollSent (ctx : Fin 64) (cls : PktClass) (dst : Nat) (b : Body) (u v : State) : Prop :=
  let x := u.ctxAt ctx
  (dst = x.rank → v = { u with
    clk := { u.clk with nextId := u.clk.nextId + 1 }
    agenda := u.agenda ++ [.event (arrivalOf ⟨cls, x.rank, dst, 2 ^ 32 + ctx.val, 0, 0, u.clk.nextId, b⟩)] }) ∧
  (dst ≠ x.rank → Sent ⟨cls, x.rank, dst, x.job, 0, 0, 0, b⟩ u v)

/-- What a run reads or forgets with an access that is over: nothing on its way to it is awaited any longer. -/
def settledFor (r : Run) (s : State) : State := s.dropReads (2 ^ 40 + r.id)

/-- The run has failed (R256): it is gone, and only a run that begins now, with a number not given out before, could have its number; its
DONE flag has 0x0001_0001 more, every live member of its team, the own rank among them, is sent an abort for its TAG; an armed entry is free and the failure is
logged; the COLL command of a sequencer that stood ready holds its fault. -/
structure RunFailed (r : Run) (reason : Nat) (f : AccFault) (s t : State) : Prop where
  gone : ∀ x ∈ t.col.runs, x.id = r.id → s.clk.nextId ≤ x.id
  done : collDone r.desc ≠ 0 → Canonical s → ¬ IsBarrierWord s r.ctx (deviceFlagAddr (collDone r.desc)) → (∃ e, r.src = .entry e) →
    t.flagAt r.ctx (deviceFlagAddr (collDone r.desc)) = s.flagAt r.ctx (deviceFlagAddr (collDone r.desc)) + 0x00010001
  aborts : ∀ k ∈ r.team, k = (s.ctxAt r.ctx).rank ∨ ((s.ctxAt r.ctx).joined = true ∧ (s.ctxAt r.ctx).live.getLsbD k = true) →
    ∃ p : Packet, p.body = .collAbort (collTag r.desc) ∧ p.dst = k ∧
      (Turn.event (.collAbortArrival p) ∈ t.agenda ∨ ∃ l, (l, p) ∈ t.fab.unacked)
  entry : ∀ e, r.src = .entry e → (∀ x ∈ t.col.runs, x.id ≠ r.id) ∧ t.col.entries[r.die][e] = none ∧ MemSame s t ∧
    ∃ x ∈ t.mgmt.sand, x.payload = f.eval ∧ x.word = BitVec.ofNat 64 (0x000B + engineSource r.die.val .coll * 2 ^ 16 +
      (reason + r.pc % 64 * 2 ^ 3 + r.ctx.val * 2 ^ 9 + collTag r.desc * 2 ^ 15) * 2 ^ 28)
  command : ∀ id m c q k, r.src = .cmd id → s.cmdOf id = some m → m.owner = .seq c q → s.taskOf m.stamp = some k → k.req = none →
    (s.seqAt c q).pending = [] → (s.seqAt c q).status = .ready → f.ue = none →
    (t.seqAt c q).pending = [⟨m.id, f.code, f.detail, f.level, f.eval, r.pc, engCode m.eng, m.stream⟩]

/-! ### Recovery -/

/-- A level of the ladder has begun to act on its scope, with its bound in fs (R272). -/
def LevelBegun (level scope trigger detail bound : Nat) (s t : State) : Prop :=
  t.mgmt.ladder = s.mgmt.ladder ++ [⟨s.clk.nextId, level, scope, trigger, detail, s.clk.fs + bound⟩]

/-- W2 has reset the cell (R272): its task is aborted and out of the Erg, no command runs on its own engines, and its queues, tokens and
accumulator rows are as after reset. -/
structure CellWasReset (c : Fin 256) (trigger : Nat) (s t : State) : Prop where
  level : LevelBegun 2 c.val trigger ((s.cellAt c).task.getD 0) 200000000000 s t
  task : ∀ n, (s.cellAt c).task = some n → t.taskOf n = none
  engines : ∀ m ∈ t.cmds, ¬ (m.unit = c.val ∧ (m.eng = .load ∨ m.eng = .matrix ∨ m.eng = .drain ∨ m.eng = .chain))
  queues : (∀ i : Fin 12, (t.cellAt c).tokens[i] = 0) ∧ (∀ i : Fin 4, (t.cellAt c).dq[i] = []) ∧ (t.cellAt c).fmtq = [] ∧ (t.cellAt c).ring = []
  acc : Canonical s → ∀ r < 2048, t.accRow c r = 0

/-- W3 acts on the cluster (R272): release to it is stopped, its tasks are aborted, its translation caches are empty and its controller's link
is as after reset; other clusters keep their caches. -/
structure ClusterQuiesced (n : Fin 16) (trigger : Nat) (s t : State) : Prop where
  level : LevelBegun 3 n.val trigger 0 1000000000000 s t
  release : t.erg.quiet.getLsbD n.val = true ∧ ∀ k : Fin 16, k ≠ n → t.erg.quiet.getLsbD k.val = s.erg.quiet.getLsbD k.val
  tasks : ∀ c : Fin 256, c.val / 16 = n.val → (∀ d : Fin 256, d.val / 16 = n.val → d ≠ c → (s.cellAt d).task = none) →
    ∀ k, (s.cellAt c).task = some k → t.taskOf k = none
  caches : t.mem.cluster[n] = [] ∧ (∀ k : Fin 16, k ≠ n → t.mem.cluster[k] = s.mem.cluster[k]) ∧
    ∀ c : Fin 256, t.mem.micro[c] = if c.val / 16 = n.val then [] else s.mem.micro[c]
  link : t.mgmt.fw.cairnBeat[n] = s.clk.fs ∧ t.mgmt.fw.hungC.getLsbD n.val = false

/-- The commit word names a copy that holds the queue as it stands (R288). -/
def Committed (k : QCopies) (h : HQueue) : Prop := (if k.isB then k.copyB else k.copyA) = h

/-- W4 has begun (R272): queues are not served until the restarted firmware's first heartbeat; cells, engines, the Erg, host queues and the
Caravan run on. -/
structure Restarting (trigger : Nat) (s t : State) : Prop where
  level : LevelBegun 4 0 trigger 0 100000000000000 s t
  fw : t.mgmt.fw.restarting = true ∧ t.mgmt.fw.handover = none ∧ t.mgmt.fw.siroccoBeat = s.clk.fs
  kept : t = { s with clk := t.clk, mgmt := t.mgmt, host := { s.host with copies := t.host.copies } }
  copies : ∀ q : Fin 64, Committed t.host.copies[q] (s.queueAt q)

/-- Everything of the device is as after power-up (R273), with the configuration record `r` judged by the boot ROM (R291): without a record
no context and no queue is configured. Time, the Sandglass and the host's own memory are kept. -/
structure DeviceReset (r : Option CfgRecord) (s t : State) : Prop where
  work : t.cmds = [] ∧ t.erg = State.reset.erg ∧ t.col = State.reset.col ∧ (∀ c, t.cellAt c = Cell.reset)
  ecc : ∀ i : Fin 45, t.mem.ecc[i] = 0
  fabric : t.fab.reads = [] ∧ t.fab.lines = [] ∧ t.fab.remotes = [] ∧ t.fab.outRecs = [] ∧ t.fab.inRecs = [] ∧ ∀ i : Fin 4096, t.fab.routes[i] = 0
  host : Canonical s → ∀ k, 2 ^ 56 ≤ k → t.readKey k = s.readKey k
  window : t.host.window = t.clk.fs / 1000000000000
  blank : r = none → t.ctxs = State.reset.ctxs ∧ t.host = { State.reset.host with window := t.host.window } ∧ t.mgmt.fw.cfgst = 0
  bad : ∀ x, r = some x → Config.verifies x.raw = false →
    t.ctxs = State.reset.ctxs ∧ t.host = { State.reset.host with window := t.host.window } ∧ t.mgmt.fw.cfgst = 2
  good : ∀ x, r = some x → Config.verifies x.raw = true → t.mgmt.fw.cfgst = 1 ∧ t.mgmt.fw.svn = x.svn ∧
    t.host.cap = (if x.cap % 50 = 0 ∧ 1200 ≤ x.cap ∧ x.cap ≤ 2400 then x.cap else 2400) ∧
    ∀ q : Fin 64, (t.queueAt q).bounded = x.bounded.contains q

end Sys2Proof.Machine
end

