-- ==== Sys2Proof/Certificates/Slice0/Obligations.lean ====
section
/-! DEFINITION. The statements about the machine that the provers prove, in the order of the opcode table: what each instruction and
each event of the device leaves, when each completes, and what every step keeps. -/

open Sys2Proof Sys2Proof.Machine

/-! ### The ALU group and the I format (majors 0x01 to 0x0D) -/

/-- R331, R354, R392: sums, products and quotients. Each always completes, writes only gD and changes nothing else. -/
def Obligations.IntegerArithmeticResults : Prop := ∀ (s : State) (d a b : Reg) (n : Bool),
  let x := s.g a
  let y := s.g b
  let X := readSigned n x
  let Y := readSigned n y
  Writes (.add d a b) s d (BitVec.ofNat 64 (x.toNat + y.toNat)) ∧
  Writes (.sub d a b) s d (BitVec.ofInt 64 (x.toInt - y.toInt)) ∧
  Writes (.mul d a b) s d (BitVec.ofNat 64 (x.toNat * y.toNat)) ∧
  Writes (.mulh d a b n) s d (BitVec.ofInt 64 (X * Y / 2 ^ 64)) ∧
  Writes (.div d a b n) s d (if Y = 0 then BitVec.ofInt 64 (-1) else BitVec.ofInt 64 (X.tdiv Y)) ∧
  Writes (.rem d a b n) s d (if Y = 0 then x else BitVec.ofInt 64 (X.tmod Y)) ∧
  Writes (.min d a b n) s d (if X ≤ Y then x else y) ∧
  Writes (.max d a b n) s d (if X ≤ Y then y else x)

/-- R331, R392, R433: bit operations, shifts, counts, SEL and CMP, with their frame. -/
def Obligations.BitAndCompareResults : Prop := ∀ (s : State) (d a b c : Reg) (cc : Cond),
  let x := s.g a
  let y := s.g b
  let sh := y.toNat % 64
  Writes (.and d a b) s d (BitVec.ofNat 64 (x.toNat &&& y.toNat)) ∧
  Writes (.or d a b) s d (BitVec.ofNat 64 (x.toNat ||| y.toNat)) ∧
  Writes (.xor d a b) s d (BitVec.ofNat 64 (x.toNat ^^^ y.toNat)) ∧
  Writes (.shl d a b) s d (BitVec.ofNat 64 (x.toNat * 2 ^ sh)) ∧
  Writes (.shr d a b) s d (BitVec.ofNat 64 (x.toNat / 2 ^ sh)) ∧
  Writes (.sra d a b) s d (BitVec.ofInt 64 (x.toInt / 2 ^ sh)) ∧
  (∃ v, Writes (.clz d a) s d v ∧ (x = 0 → v = 64) ∧ (x ≠ 0 → v.toNat ≤ 63 ∧ x.toNat / 2 ^ (63 - v.toNat) = 1)) ∧
  Writes (.popc d a) s d (BitVec.ofNat 64 ((List.range 64).countP fun i => x.toNat / 2 ^ i % 2 = 1)) ∧
  Writes (.sel d a b c) s d (if s.g c ≠ 0 then x else y) ∧
  (holdsOn cc x y → Writes (.cmp d a b cc) s d 1) ∧ (¬ holdsOn cc x y → Writes (.cmp d a b cc) s d 0)

/-- R332, R361, R362, R400, R404, R433: the immediate forms, with their frame. -/
def Obligations.ImmediateResults : Prop := ∀ (s : State) (d a : Reg) (i : BitVec 16) (sh : Fin 64) (k : Fin 4) (cc : Cond) (j : BitVec 13)
    (pos lm : Fin 64),
  let x := s.g a
  let len := lm.val + 1
  Writes (.addi d a i) s d (BitVec.ofInt 64 (x.toInt + i.toInt)) ∧
  Writes (.andi d a i) s d (BitVec.ofNat 64 (x.toNat &&& i.toNat)) ∧
  Writes (.ori d a i) s d (BitVec.ofNat 64 (x.toNat ||| i.toNat)) ∧
  Writes (.xori d a i) s d (BitVec.ofNat 64 (x.toNat ^^^ i.toNat)) ∧
  Writes (.shli d a sh) s d (BitVec.ofNat 64 (x.toNat * 2 ^ sh.val)) ∧
  Writes (.shri d a sh) s d (BitVec.ofNat 64 (x.toNat / 2 ^ sh.val)) ∧
  Writes (.srai d a sh) s d (BitVec.ofInt 64 (x.toInt / 2 ^ sh.val)) ∧
  (holdsOn cc x (BitVec.ofInt 64 j.toInt) → Writes (.cmpi d a cc j) s d 1) ∧
  (¬ holdsOn cc x (BitVec.ofInt 64 j.toInt) → Writes (.cmpi d a cc j) s d 0) ∧
  Writes (.movi d i) s d (BitVec.ofInt 64 i.toInt) ∧
  (∃ v, Writes (.movh d i k) s d v ∧ ∀ n < 64,
    v.getLsbD n = if 16 * k.val ≤ n ∧ n < 16 * k.val + 16 then i.getLsbD (n - 16 * k.val) else (s.g d).getLsbD n) ∧
  (pos.val + len ≤ 64 →
    Writes (.ext d a false pos lm) s d (BitVec.ofNat 64 (x.toNat / 2 ^ pos.val % 2 ^ len)) ∧
    Writes (.ext d a true pos lm) s d (BitVec.ofInt 64 ((BitVec.ofNat len (x.toNat / 2 ^ pos.val)).toInt)) ∧
    ∃ v, Writes (.ins d a pos lm) s d v ∧ ∀ n < 64,
      v.getLsbD n = if pos.val ≤ n ∧ n < pos.val + len then x.getLsbD (n - pos.val) else (s.g d).getLsbD n)

/-! ### Branches, jumps and LOOP (majors 0x18 to 0x21) -/

/-- R336: a conditional branch goes to PC + 4 × off16 when its condition holds of gA and gB, and to the next instruction otherwise. -/
def Obligations.BranchResults : Prop := ∀ (s : State) (a b : Reg) (off : BitVec 16) (i : Instr) (cc : Cond),
  (i, cc) ∈ [(.beq a b off, .eq), (.bne a b off, .ne), (.blt a b off, .lt), (.bge a b off, .ge), (.bltn a b off, .ltn),
    (.bgen a b off, .gen)] →
  (holdsOn cc (s.g a) (s.g b) → Completes i s (Jumped 0 0 (BitVec.ofInt 64 (s.me.pc.toInt + 4 * off.toInt)) s)) ∧
  (¬ holdsOn cc (s.g a) (s.g b) → Completes i s (Passed 4 s))

/-- R336, R374: B and JAL go to PC + 4 × off26, JAL with the link in g31; JR goes to what gA held before the link was written, and traps
MISALIGNED, with no link, where that is no multiple of 4. -/
def Obligations.JumpResults : Prop := ∀ (s : State) (d a : Reg) (off : BitVec 26),
  let target := BitVec.ofInt 64 (s.me.pc.toInt + 4 * off.toInt)
  Completes (.b off) s (Jumped 0 0 target s) ∧
  Completes (.jal off) s (Jumped 31 (s.me.pc + 4) target s) ∧
  ((s.g a).toNat % 4 = 0 → Completes (.jr d a) s (Jumped d (s.me.pc + 4) (s.g a) s)) ∧
  ((s.g a).toNat % 4 ≠ 0 → CanTrap s → Traps (.jr d a) s 0x03 0 (s.g a))

/-- R388: LOOP pushes a level and goes on at its body; with a count of 0 it skips the body and the check of R389 is made there; a ninth
level, or one that would end after the innermost, traps ILLEGAL with detail 0x05. -/
def Obligations.LoopResults : Prop := ∀ (s : State) (a : Reg) (len : BitVec 16),
  let start := s.me.pc + 4
  let stop := start + BitVec.ofNat 64 (4 * len.toNat)
  let fits := s.me.loops.length < 8 ∧ ∀ l ∈ s.me.loops.head?, stop.toNat ≤ l.stop.toNat
  (fits → s.g a ≠ 0 → start.toNat < stop.toNat →
    Completes (.loop a len) s fun t =>
      t.me.pc = start ∧ t.me.loops = ⟨start, stop, s.g a⟩ :: s.me.loops ∧ RegsSame s t ∧ OnlyMine s t ∧
      t.me = { s.me with pc := start, loops := t.me.loops, status := t.me.status, held := 0, latch := none, stall := none }) ∧
  (fits → s.g a = 0 → Completes (.loop a len) s (Passed (4 + 4 * len.toNat) s)) ∧
  (¬ fits → CanTrap s → Traps (.loop a len) s 0x01 0x05 0)

/-- R389, R391: after an instruction that completes in sequence the loop-end check is made, shown on NOP: a level that is not over goes
back to its start with one iteration less, a level that is over is popped and the next level out is tested, and no check is made
while CAUSE.HND is 1. -/
def Obligations.LoopEndCheck : Prop := ∀ (s : State),
  Completes .nop s fun t =>
    Passed 4 s t ∧
    (s.me.hnd = false → ∀ (l : LoopLevel) (ls : List LoopLevel), s.me.loops = l :: ls →
      ((s.me.pc + 4).toNat < l.stop.toNat → t.me.pc = s.me.pc + 4 ∧ t.me.loops = l :: ls) ∧
      (l.stop.toNat ≤ (s.me.pc + 4).toNat → 1 < l.remain.toNat →
        t.me.pc = l.start ∧ t.me.loops = { l with remain := l.remain - 1 } :: ls) ∧
      (l.stop.toNat ≤ (s.me.pc + 4).toNat → l.remain = 1 → ls = [] → t.me.pc = s.me.pc + 4 ∧ t.me.loops = []) ∧
      (∀ (m : LoopLevel) (ms : List LoopLevel), l.stop.toNat ≤ (s.me.pc + 4).toNat → l.remain = 1 → ls = m :: ms →
        m.stop.toNat ≤ (s.me.pc + 4).toNat → 1 < m.remain.toNat →
          t.me.pc = m.start ∧ t.me.loops = { m with remain := m.remain - 1 } :: ms)) ∧
    (s.me.hnd = true → t.me.pc = s.me.pc + 4 ∧ t.me.loops = s.me.loops)

/-! ### Loads, stores and atomics (majors 0x10 to 0x15) -/

/-- R306, R380, R328: LD writes the bytes at G(a) + off9 × k, zero-extended for the sizes n8 to b64 and sign-extended for i8 to i32, and
LD.atom the bytes at G(a), zero-extended; the bytes are read after the sequencer's own earlier stores that R184 orders before it. No
other byte of memory changes than what those stores write. -/
def Obligations.LoadResults : Prop := ∀ (s : State) (d a : Reg) (st : Fin 16) (off : BitVec 9) (key mat : Nat),
  (∀ (size : LdSize) (k : Nat) (f : Nat → Word),
    (size, k, f) ∈ [(.n8, 1, BitVec.ofNat 64), (.n16, 2, BitVec.ofNat 64), (.n32, 4, BitVec.ofNat 64), (.b64, 8, BitVec.ofNat 64),
      (.i8, 1, fun x => BitVec.ofInt 64 (BitVec.ofNat 8 x).toInt), (.i16, 2, fun x => BitVec.ofInt 64 (BitVec.ofNat 16 x).toInt),
      (.i32, 4, fun x => BitVec.ofInt 64 (BitVec.ofNat 32 x).toInt)] →
    Granted s st .read (BitVec.ofInt 64 ((s.g a).toInt + off.toInt * k)).toNat k key mat → Readable s key k →
    Completes (.ld d a st size off) s fun t =>
      RegSet s t d (f (valueAt (SeenBy s st key k) key k mat)) ∧ MineAndStores s t ∧ WentOn s t 4) ∧
  ∀ (size : Fin 4), Granted s st .atomic (s.g a).toNat (2 ^ size.val) key mat → Readable s key (2 ^ size.val) →
    Completes (.ldAtom d a st size) s fun t =>
      RegSet s t d (BitVec.ofNat 64 (valueAt (SeenBy s st key (2 ^ size.val)) key (2 ^ size.val) mat)) ∧ MineAndStores s t ∧ WentOn s t 4

/-- R182, R412: ST issues a store of the low bytes of gD at G(a) + off9 × 2^size. That it stays pending for now, and that every byte of
memory reads as before until it is performed, is the model's choice (log entry 7, DESIGN CHOICE). -/
def Obligations.StoreResult : Prop := ∀ (s : State) (d a : Reg) (st : Fin 16) (size : Fin 4) (off : BitVec 9) (key mat : Nat),
  let k : Nat := 2 ^ size.val
  let va := (BitVec.ofInt 64 ((s.g a).toInt + off.toInt * k)).toNat
  Granted s st .write va k key mat → Writable s key k →
  Completes (.st d a st size off) s (Stored (storeOf s st va key k mat (s.g d)) s)

/-- R182, R184: a load of the bytes that the sequencer's last store wrote returns the stored value, whatever the streams of the two. -/
def Obligations.LoadAfterStore : Prop :=
  ∀ (s t : State) (d a e b : Reg) (st st' : Fin 16) (off off' : BitVec 9) (size : Fin 4) (key mat : Nat),
  let k : Nat := 2 ^ size.val
  let va := (BitVec.ofInt 64 ((s.g a).toInt + off.toInt * k)).toNat
  Canonical s → Granted s st .write va k key mat → Writable s key k → exec (.st d a st size off) s = .next t →
  Granted t st' .read (BitVec.ofInt 64 ((s.g b).toInt + off'.toInt * k)).toNat k key mat → Readable t key k →
  ∀ (z : LdSize), (size, z) ∈ [((0 : Fin 4), LdSize.n8), (1, .n16), (2, .n32), (3, .b64)] →
  Completes (.ld e b st' z off') t fun u => RegSet t u e (BitVec.ofNat 64 ((s.g d).toNat % 2 ^ (8 * k)))

/-- R327 to R330: AMO, ACAS and ARED act on the bytes at G(a) as the sequencer's earlier ordered stores leave them. AMO writes
AtomicOp(op, old, G(b)), ACAS writes G(b) where the old bytes equal the low bits of gD, both return the old bytes zero-extended, and a
local ARED returns nothing. Beside the bytes of the location memory changes only where those earlier stores write. -/
def Obligations.AtomicResults : Prop := ∀ (s : State) (d a b : Reg) (st : Fin 16) (size : Fin 4) (op : AtOp) (key mat : Nat),
  let k : Nat := 2 ^ size.val
  let u := SeenBy s st key k
  let old := valueAt u key k mat
  let y := (s.g b).toNat % 2 ^ (8 * k)
  Canonical s → Readable s key k →
  (∀ new, atomicInt op old y (8 * k) = some new ∨ (atomicInt op old y (8 * k) = none ∧ new = atomicOp op old y (8 * k)) →
    (Granted s st .atomic (s.g a).toNat k key mat →
      Completes (.amo d a b st size op) s fun t =>
        RegSet s t d (BitVec.ofNat 64 old) ∧ WentOn s t 4 ∧ (∀ i < k, t.readUnder (key + i) mat = BitVec.ofNat 8 (new / 2 ^ (8 * i))) ∧
        (∀ j, ¬ MyPending s j → (∀ i < k, j ≠ key + i) → t.readKey j = s.readKey j)) ∧
    (Granted s st .red (s.g a).toNat k key mat →
      Completes (.ared a b st size op) s fun t =>
        RegsSame s t ∧ WentOn s t 4 ∧ (∀ i < k, t.readUnder (key + i) mat = BitVec.ofNat 8 (new / 2 ^ (8 * i))) ∧
        (∀ j, ¬ MyPending s j → (∀ i < k, j ≠ key + i) → t.readKey j = s.readKey j))) ∧
  (Granted s st .atomic (s.g a).toNat k key mat →
    Completes (.acas d a b st size) s fun t =>
      RegSet s t d (BitVec.ofNat 64 old) ∧ WentOn s t 4 ∧
      (old = (s.g d).toNat % 2 ^ (8 * k) → ∀ i < k, t.readUnder (key + i) mat = BitVec.ofNat 8 (y / 2 ^ (8 * i))) ∧
      (old ≠ (s.g d).toNat % 2 ^ (8 * k) → ∀ i < k, t.readUnder (key + i) mat = u.readUnder (key + i) mat) ∧
      (∀ j, ¬ MyPending s j → (∀ i < k, j ≠ key + i) → t.readKey j = s.readKey j))

/-- R328, R380, R396, R412: an access whose address is no multiple of its size traps MISALIGNED with the address in EVAL, before any other
check. -/
def Obligations.MisalignedTraps : Prop := ∀ (s : State) (d a b : Reg) (st : Fin 16) (size : Fin 4) (off : BitVec 9) (op : AtOp), CanTrap s →
  (∀ (z : LdSize) (k : Nat), (z, k) ∈ [(.n8, 1), (.n16, 2), (.n32, 4), (.b64, 8), (.i8, 1), (.i16, 2), (.i32, 4)] →
    let va := BitVec.ofInt 64 ((s.g a).toInt + off.toInt * k)
    va.toNat % k ≠ 0 → Traps (.ld d a st z off) s 0x03 0 va) ∧
  (let va := BitVec.ofInt 64 ((s.g a).toInt + off.toInt * (2 ^ size.val : Nat));
    va.toNat % 2 ^ size.val ≠ 0 → Traps (.st d a st size off) s 0x03 0 va) ∧
  ((s.g a).toNat % 2 ^ size.val ≠ 0 →
    ∀ i ∈ [Instr.amo d a b st size op, .ldAtom d a st size, .acas d a b st size, .ared a b st size op, .mcst d a b st size op],
      Traps i s 0x03 0 (s.g a))

/-- R184, R215, R216, R224, R397: MCST adds to the outbound caravan exactly one record for each live member of its group, in ascending rank,
each under the agent id and the stream of R215 and with the same bytes or the same reduction, and writes no memory; the stores that its
stream orders before it are performed. The premises are the checks of R397 in its order, with the records accepted under R224 (`plain`
leaves out where a record is kept), and no earlier record of this agent, stream and step to combine with (R215). Where no window of a
receiver counts the bytes and the context's reserved share has room, they are accepted there and the MCST completes. -/
def Obligations.MulticastRecords : Prop := ∀ (s : State) (g a b : Reg) (st : Fin 16) (size : Fin 4) (op : AtOp),
  let k := 2 ^ size.val
  let va := (s.g a).toNat
  let y := (s.g b).toNat % 2 ^ (8 * k)
  let group := (s.g g).toNat % 256
  let body : RecBody := if op = .swap then .store ((List.range k).map fun i => (va + i, BitVec.ofNat 8 (y / 2 ^ (8 * i))))
    else .reduce va k op (BitVec.ofNat 64 y)
  let base := s.myCtx.mcbase.toNat + 512 * group
  let agent := s.seqAgent st
  let members := s.mcMembers s.myCtx group
  let v := (s.performBefore (some st) []).correct ((List.range 512).map (base + ·))
  let record := fun (kept : Bool) (r : Nat × Nat) => (⟨s.ctxIx, r.1,
    ⟨s.myCtx.step, 64 * s.cell.val + 16 * (roleIx s.role).val + st.val, st.val, s.clk.nextId + r.2, body, false⟩,
    false, kept, false, false, .none⟩ : OutRec)
  let plain := fun (o : OutRec) => { o with spilled := false, reserved := false }
  let after := fun (t : State) =>
    RegsSame s t ∧ WentOn s t 4 ∧
    MineAndStores { s with
      clk := { s.clk with nextId := s.clk.nextId + members.length }
      fab := { s.fab with outRecs := t.fab.outRecs, quotaUsed := t.fab.quotaUsed } } t
  va % k = 0 → s.slotsFull = false → inAperture va = false → s.myCtx.joined = true →
  s.footFault agent (if op = .swap then .write else .red) none va k = none →
  s.mcLeaf agent (op != .swap) va = .ok s () →
  base < 2 ^ 39 → (∀ i < 512, s.isBad (base + i) = false) → members ≠ [] →
  (∀ r ∈ members, ∀ o ∈ s.fab.outRecs, o.tagged agent false r = false) →
  (∀ u, v.accept agent va (members.map fun r => (r, false, body)) = .ok u → Completes (.mcst g a b st size op) s fun t =>
    after t ∧ t.fab.outRecs.map plain = s.fab.outRecs.map plain ++ members.zipIdx.map (record false)) ∧
  ((∀ r ∈ members, ∀ i < k, s.myCtx.quotaWin r s.myCtx.step (va + i) = none) →
    s.reservedUsed s.ctxIx + members.length * (Config.recordBytes (recIsStore body)).val ≤ 524288 →
    Completes (.mcst g a b st size op) s fun t =>
      after t ∧ t.fab.quotaUsed = s.fab.quotaUsed ∧ t.fab.outRecs = s.fab.outRecs ++ members.zipIdx.map (record true))

/-! ### The SYS group (major 0x22) -/

/-- R185, R366, R403: after PAUSE nothing more issues for 16 mc, a wait that R45 does not count (R403) and that the status notes; FENCE completes once no engine command of the sequencer runs in a stream that
its mask names, with the sequencer's stores of those streams performed, and writes no other byte. -/
def Obligations.PauseAndFence : Prop := ∀ (s : State) (mask : BitVec 16),
  Completes .pause s (LeftReady (.pause 16) s) ∧
  ((∀ p ∈ s.me.pending, mask.getLsbD p.stream.val = false) →
    (∀ m ∈ s.cmds, m.owner = .seq s.cell s.role → mask.getLsbD m.stream.val = false) →
    Completes (.fence mask) s fun t =>
      MineAndStores s t ∧ RegsSame s t ∧ WentOn s t 4 ∧
      ∀ p ∈ t.mem.pend, p.cell = s.cell → p.role = s.role → mask.getLsbD p.stream.val = false)

/-- R27, R28, R30, R32, R187: TAKE lowers the count of every queue of its mask by one once all of them hold a token, and waits while one
is empty; GIVE raises every count of its mask by one in the cycle it issues, with the sequencer's earlier stores performed, and traps
TOKEN_OVERFLOW, judged after every other instruction of the cell in its cycle, where a committed count is 255. -/
def Obligations.TokenMoves : Prop := ∀ (s : State) (mask : BitVec 3),
  (s.me.pending = [] → s.me.held = 0 → (∀ r, MaskNames s.role mask r → 1 ≤ s.tokensOn r s.role) →
    Completes (.take mask) s fun t =>
      RegsSame s t ∧ WentOn s t 4 ∧ OnlyMine (withTokensOf t s) t ∧
      ∀ a b, a ≠ b →
        (b = s.role ∧ MaskNames s.role mask a → t.tokensOn a b = s.tokensOn a b - 1) ∧
        (¬ (b = s.role ∧ MaskNames s.role mask a) → t.tokensOn a b = s.tokensOn a b) ∧ t.reservedOn a b = s.reservedOn a b) ∧
  (s.me.pending = [] → s.me.held = 0 → (∃ r, MaskNames s.role mask r ∧ s.tokensOn r s.role = 0) →
    Completes (.take mask) s (LeftReady (.tokens mask) s)) ∧
  ((∀ r, MaskNames s.role mask r → s.tokensOn s.role r + s.reservedOn s.role r < 255) →
    Completes (.give mask) s fun t =>
      RegsSame s t ∧ WentOn s t 4 ∧ MineAndStores (withTokensOf t s) t ∧ (mask ≠ 0 → AllPerformed s t) ∧
      ∀ a b, a ≠ b →
        (a = s.role ∧ MaskNames s.role mask b → t.tokensOn a b = s.tokensOn a b + 1) ∧
        (¬ (a = s.role ∧ MaskNames s.role mask b) → t.tokensOn a b = s.tokensOn a b) ∧ t.reservedOn a b = s.reservedOn a b) ∧
  (CanTrap s → (∃ r, MaskNames s.role mask r ∧ 255 ≤ s.tokensOn s.role r + s.reservedOn s.role r) →
    (∀ q, Turn.issue s.cell q ∉ s.agenda) →
    ∃ eval, Traps (.give mask) s 0x08 0 eval)

/-- R259, R260, R261, R312, R340: TRAP completes and then takes SOFTWARE with its operand in EVAL, BKPT completes and then takes BREAKPOINT
with 0, each with the address at which the sequencer would go on in EPC; a word that is no instruction takes ILLEGAL at its own address
with the decode's detail and the words in EVAL. -/
def Obligations.TrapInstructions : Prop := ∀ (s : State) (a : Reg) (d : BitVec 8) (w : Word), CanTrap s →
  (s.myCell.stopReq = false →
    (Completes (.trap a) s fun t => ∃ u, Passed 4 s u ∧ TookTrap 0x11 0 0 (s.g a) u.me.pc u t) ∧
    (Completes .bkpt s fun t => ∃ u, Passed 4 s u ∧ TookTrap 0x12 0 0 0 u.me.pc u t)) ∧
  Traps (.illegalEncoding d w) s 0x01 d w

/-- R262: a trap that arrives while a handler is active, and one with no handler address, halts the sequencer with CAUSE naming the trap
that could not be taken, writes two events, and aborts the task with detail 0x02 or 0x03. Shown on an illegal word. -/
def Obligations.DoubleFaultAborts : Prop := ∀ (s : State) (d : BitVec 8) (w : Word) (stamp : Nat),
  s.me.held = 0 → s.me.status = .ready → s.myCell.task = some stamp → s.me.hnd = true ∨ s.me.tvec = 0 →
  Completes (.illegalEncoding d w) s fun t => ∃ u,
    t = u.abortTask stamp (if s.me.hnd then 0x02 else 0x03) 0 0 ∧
    u.me = { s.me with cause := 0x0113, status := .halted, held := 0, latch := none, stall := none } ∧
    u.mgmt.sandCount = s.mgmt.sandCount + 2 ∧ u.erg = s.erg ∧ MemSame s u ∧
    ∃ e1 e2, u.mgmt.sand = keepLast 8192 (keepLast 8192 (s.mgmt.sand ++ [e1]) ++ [e2]) ∧ e1.payload = s.me.pc ∧ e2.payload = w

/-- R266, R391: ERET, with the sequencer's earlier stores performed, clears CAUSE.HND and goes to EPC with the loop stack as it is. A
command held for the report is restarted at row EPROG where it is resumable and DEF is 1, and is otherwise discarded with its gives made. -/
def Obligations.EretResults : Prop := ∀ (s : State),
  ((s.me.reports.head?.join).bind s.cmdOf = none →
    Completes .eret s fun t =>
      MineAndStores s t ∧ AllPerformed s t ∧ (∀ i, t.me.cause.getLsbD i = (decide (i ≠ 31) && s.me.cause.getLsbD i)) ∧
      t.me = { s.me with
        pc := s.me.epc, cause := t.me.cause, reports := s.me.reports.drop 1, status := t.me.status, held := 0, latch := none
        stall := none } ∧
      (s.myCell.stopReq = false → t.me.status = .ready)) ∧
  ∀ (m : Cmd) (id : Nat), s.me.reports.head? = some (some id) → s.cmdOf id = some m →
    let kept := fun (t : State) => AllPerformed s t ∧ ∀ k, Canonical s → ¬ MyPending s k → t.readKey k = s.readKey k
    ((m.op.resumable = true ∧ s.me.cause.getLsbD 18 = true) →
      Completes .eret s fun t =>
        t.me.pc = s.me.epc ∧ t.me.hnd = false ∧ kept t ∧ t.cmdOf id = some { m with state := .started, prog := s.me.eprog.toNat }) ∧
    (¬ (m.op.resumable = true ∧ s.me.cause.getLsbD 18 = true) → m.owner = .seq s.cell s.role →
      Completes .eret s fun t =>
        t.me.pc = s.me.epc ∧ t.me.hnd = false ∧ kept t ∧ t.cmdOf id = none ∧
        ∀ b, b ≠ s.role →
          (MaskNames s.role m.gives b → t.tokensOn s.role b = s.tokensOn s.role b + 1) ∧
          (¬ MaskNames s.role m.gives b → t.tokensOn s.role b = s.tokensOn s.role b))

/-- R29, R40, R42, R358: END stops its sequencer at the END and leaves its registers; the task becomes ENDING with the fourth END. An END in
a handler discards the commands held for the sequencer's reports, with their gives made. -/
def Obligations.EndResults : Prop := ∀ (s : State), s.me.pending = [] →
  let ended := { s.me with status := .ended, held := 0, latch := none, reports := [] }
  let others := ∃ q, q ≠ s.role ∧ (s.seqAt s.cell q).status ≠ .ended
  (s.me.reports = [] → others → Completes .endSeq s fun t => OnlyMine s t ∧ t.me = ended) ∧
  (s.me.reports = [] → ¬ others → ∀ (n : Nat) (k : Task), s.myCell.task = some n → s.taskOf n = some k → k.state = .running →
    Completes .endSeq s fun t => t.me = ended ∧ MemSame s t ∧ t.taskOf n = some { k with state := .ending }) ∧
  (others → Completes .endSeq s fun t =>
    t.me = ended ∧ MemSame s t ∧ t.erg = s.erg ∧ t.ctxs = s.ctxs ∧
    (∀ id, some id ∈ s.me.reports → t.cmdOf id = none) ∧ t.cmds.Sublist s.cmds ∧
    ∀ m ∈ s.cmds, some m.id ∉ s.me.reports → m ∈ t.cmds) ∧
  ∀ (id : Nat) (m : Cmd), others → s.me.reports = [some id] → s.cmdOf id = some m → m.owner = .seq s.cell s.role →
    Completes .endSeq s fun t => ∀ b, b ≠ s.role →
      (MaskNames s.role m.gives b → t.tokensOn s.role b = s.tokensOn s.role b + 1 ∧ t.reservedOn s.role b = s.reservedOn s.role b - 1) ∧
      (¬ MaskNames s.role m.gives b → t.tokensOn s.role b = s.tokensOn s.role b ∧ t.reservedOn s.role b = s.reservedOn s.role b)


/-- R301, R302, R405: what RDS reads from each special register. FPCTL, FPFLG, VL and ACCP are C's, and FPFLG is read once no CHAIN of the
cell runs (R129). -/
def Obligations.SpecialRegisterReads : Prop := ∀ (s : State) (d : Reg),
  let x := s.myCell
  let q := s.me
  Writes (.rds d .seq) s d (match s.role with | .K => 0 | .L => 1 | .C => 2 | .S => 3) ∧
  Writes (.rds d .cell) s d (BitVec.ofNat 64 s.cell.val) ∧
  Writes (.rds d .cluster) s d (BitVec.ofNat 64 (s.cell.val / 16)) ∧
  Writes (.rds d .rank) s d (BitVec.ofNat 64 (s.ctxs[x.ctx]).rank) ∧
  Writes (.rds d .ctx) s d (BitVec.ofNat 64 x.ctx.val) ∧
  Writes (.rds d .ticket) s d x.ticket ∧
  (∀ i, Writes (.rds d (.arg i)) s d x.args[i]) ∧
  (∀ i, Writes (.rds d (.fbase i)) s d x.fbase[i]) ∧
  Writes (.rds d .step) s d (s.ctxs[x.ctx]).stepSeen ∧
  Writes (.rds d .stepst) s d (s.ctxs[x.ctx]).stepstSeen ∧
  Writes (.rds d .cycle) s d s.clk.cycle ∧
  Writes (.rds d .wintmo) s d (BitVec.ofNat 64 q.wintmo.toNat) ∧
  Writes (.rds d .cause) s d q.cause ∧ Writes (.rds d .epc) s d q.epc ∧ Writes (.rds d .eval) s d q.eval ∧
  Writes (.rds d .eprog) s d q.eprog ∧ Writes (.rds d .tvec) s d q.tvec ∧ Writes (.rds d .esave) s d q.esave ∧
  (s.role = .C →
    Writes (.rds d .fpctl) s d (BitVec.ofNat 64 x.fpctl.toNat) ∧
    ((∀ m ∈ s.cmds, m.eng = .chain → m.unit = s.cell.val → m.state = .faulted) →
      Writes (.rds d .fpflg) s d (BitVec.ofNat 64 x.fpflg.toNat)) ∧
    Writes (.rds d .vl) s d (BitVec.ofNat 64 x.vl.toNat) ∧
    Writes (.rds d .accp) s d (BitVec.ofNat 64 x.accp.toNat))

/-- R258, R301, R432: what WRS leaves. A write to a read-only register is ignored; HND, EVAL, ESAVE and the addresses of EPC and TVEC are
written, a 1 clears DEF with its engine, VL is held at 1,024, and nothing but the named register changes. -/
def Obligations.SpecialRegisterWrites : Prop := ∀ (s : State) (a : Reg),
  let v := s.g a
  (∀ r, r ∈ [Spr.seq, .cell, .cluster, .rank, .ctx, .ticket, .step, .cycle, .eprog] ∨ (∃ i, r = .arg i) ∨ (∃ i, r = .fbase i) →
    Completes (.wrs r a) s (Passed 4 s)) ∧
  (∀ r, r ∈ [Spr.wintmo, .cause, .epc, .eval, .tvec, .esave] →
    Completes (.wrs r a) s fun t =>
      RegsSame s t ∧ OnlyMine s t ∧
      t.me = { s.me with
        wintmo := if r = .wintmo then v.truncate 32 else s.me.wintmo
        epc := if r = .epc then v &&& ~~~3#64 else s.me.epc
        tvec := if r = .tvec then v &&& ~~~3#64 else s.me.tvec
        eval := if r = .eval then v else s.me.eval
        esave := if r = .esave then v else s.me.esave
        cause := if r = .cause then t.me.cause else s.me.cause
        pc := t.me.pc, loops := t.me.loops, status := t.me.status, held := 0, latch := none, stall := none } ∧
      (r = .cause → ∀ i < 64, t.me.cause.getLsbD i =
        if i = 31 then v.getLsbD 31
        else if 18 ≤ i ∧ i ≤ 21 then s.me.cause.getLsbD i && !v.getLsbD 18
        else s.me.cause.getLsbD i)) ∧
  (Completes (.wrs .stepst a) s fun t =>
    RegsSame s t ∧
    t.ctxs = s.ctxs.set s.ctxIx { s.myCtx with
      conflict := s.myCtx.conflict && !v.getLsbD 19, partialEnd := s.myCtx.partialEnd && !v.getLsbD 18 } ∧
    OnlyMine { s with ctxs := t.ctxs } t) ∧
  (s.role = .C → (∀ m ∈ s.cmds, m.eng = .chain → m.unit = s.cell.val → m.state = .faulted) →
    ∀ r, r ∈ [Spr.fpctl, .fpflg, .vl, .accp] →
    Completes (.wrs r a) s fun t =>
      RegsSame s t ∧
      OnlyMine (s.setMyCell { s.myCell with
        fpctl := if r = .fpctl then v.truncate 3 else s.myCell.fpctl
        fpflg := if r = .fpflg then v.truncate 6 else s.myCell.fpflg
        vl := if r = .vl then BitVec.ofNat 11 (if v.toNat ≤ 1024 then v.toNat else 1024) else s.myCell.vl
        accp := if r = .accp then v.truncate 12 else s.myCell.accp }) t)

/-- R23, R24: an instruction on a sequencer where it is not legal traps ILLEGAL_ROLE with EVAL 0 and has no other effect. -/
def Obligations.RoleTraps : Prop := ∀ (s : State) (i : Instr), legalOn i s.role = false → CanTrap s → Traps i s 0x02 0 0

/-- R261, R263, R264: a synchronising instruction first reports the pending fault whose command issued first, with its progress in EPROG,
its engine in CAUSE and the instruction's own address in EPC; the command is held for the handler. Shown on TAKE, FWAIT, FGET, BWAIT, SWAIT
and END, and on FENCE for the streams that its mask names. -/
def Obligations.PendingFaultFirst : Prop :=
  ∀ (s : State) (d a b : Reg) (cc : Cond) (t : Bool) (m : BitVec 3) (mask : BitVec 16) (p : PendFault) (i : Instr), CanTrap s →
  (i ∈ [Instr.take m, .fwait d a b cc t, .fget d a, .bwait d a b t, .swait d a t, .endSeq] ∧ s.me.pending.head? = some p) ∨
    (i = .fence mask ∧ s.me.pending.find? (fun p => mask.getLsbD p.stream.val) = some p) →
  Completes i s fun u =>
    u.me.pc = s.me.tvec ∧ u.me.epc = s.me.pc ∧ u.me.eval = p.eval ∧ u.me.eprog = BitVec.ofNat 64 (p.prog % 2 ^ 32) ∧
    u.me.cause = BitVec.ofNat 64
      (2 ^ 31 + p.eng.toNat * 2 ^ 19 + 2 ^ 18 + p.level.toNat * 2 ^ 16 + p.detail.toNat * 2 ^ 8 + p.code.toNat) ∧
    u.me.pending = s.me.pending.filter (fun x => x.cmd ≠ p.cmd) ∧ u.me.reports = some p.cmd :: s.me.reports ∧
    RegsSame s u ∧ MemSame s u ∧ u.cmds = s.cmds

/-! ### Flags and barriers (majors 0x23 and 0x24) -/

/-- R187, R201, R202, R364, R365: FGET reads a flag; FWAIT reads it once the condition holds of it and of gB, writes TIMEOUT or traps where
WINTMO is 0, and otherwise waits; FSET and FADD write it and GSET writes guard gA of the cell's page, with the sequencer's earlier stores
performed and no other flag changed. -/
def Obligations.FlagResults : Prop := ∀ (s : State) (d a b : Reg) (cc : Cond) (t : Bool), Canonical s →
  let addr := s.g a
  let n := addr.toNat
  let old := s.flagAt s.ctxIx n
  let y : BitVec 32 := (s.g b).truncate 32
  (n % 4 = 0 → OnFlagPage addr → s.me.pending = [] →
    Writes (.fget d a) s d (old.zeroExtend 64) ∧
    (s.me.latch = none → holdsOn cc (if cc = .lt ∨ cc = .ge then old.signExtend 64 else old.zeroExtend 64)
        (if cc = .lt ∨ cc = .ge then y.signExtend 64 else y.zeroExtend 64) →
      Writes (.fwait d a b cc t) s d (old.zeroExtend 64)) ∧
    (s.me.latch = none → ¬ holdsOn cc (if cc = .lt ∨ cc = .ge then old.signExtend 64 else old.zeroExtend 64)
        (if cc = .lt ∨ cc = .ge then y.signExtend 64 else y.zeroExtend 64) →
      (s.me.wintmo = 0 → Writes (.fwait d a b cc false) s d (BitVec.ofInt 64 (-6))) ∧
      (s.me.wintmo = 0 → CanTrap s → Traps (.fwait d a b cc true) s 0x10 0 addr) ∧
      (s.me.wintmo ≠ 0 → Completes (.fwait d a b cc t) s (LeftReady (.flag addr cc y t d s.me.wintmo.toNat 0 none) s))) ∧
    (∀ v, s.me.latch = some v → Writes (.fwait d a b cc t) s d v)) ∧
  (n % 4 = 0 → OnFlagPage addr → ¬ IsBarrierWord s s.ctxIx n →
    (Completes (.fset a b) s fun u => u.flagAt s.ctxIx n = y ∧ FlagFrame [flagKey s.ctxIx n] 0 0 s u) ∧
    (Completes (.fadd d a b) s fun u =>
      u.flagAt s.ctxIx n = old + y ∧ FlagFrame [flagKey s.ctxIx n] d (old.zeroExtend 64) s u)) ∧
  (1 ≤ n → n ≤ 255 →
    let g := 0xFFFFFF0000080000 + 0x400 * s.cell.val + 4 * n
    ¬ IsBarrierWord s s.ctxIx g →
    Completes (.gset a b) s fun u => u.flagAt s.ctxIx g = y ∧ FlagFrame [flagKey s.ctxIx g] 0 0 s u) ∧
  (CanTrap s → s.me.pending = [] →
    (∀ i ∈ [Instr.fwait d a b cc t, .fset a b, .fadd d a b, .fget d a],
      (n % 4 ≠ 0 → Traps i s 0x03 0 addr) ∧ (n % 4 = 0 → ¬ OnFlagPage addr → Traps i s 0x05 0x0B addr)) ∧
    (n = 0 ∨ 255 < n → Traps (.gset a b) s 0x01 0x1C 0))

/-- R205 to R209, R338, R339: BINIT writes EXP, SCOPE and TMO and clears the rest, the reserved bits and AH with it, but that AH is set where
the object is of pod scope and a member of the job is absent (R209); or it writes BOUNDS or BUSY; BARV counts gB arrivals on an
object of cell, cluster or device scope, returns the phase before it, passes the phase when the expected count is reached, and on an
overrun sets OVR and returns the status, or traps; BWAIT returns 0 or STALE by how far the phase has passed, and waits with WAITERS one
higher where it has not. -/
def Obligations.BarrierResults : Prop := ∀ (s : State) (d a b : Reg) (t : Bool), Canonical s →
  let n := (s.g a).toNat
  let c := s.ctxIx
  let v := s.g b
  let words := [flagKey c n, flagKey c (n + 4), flagKey c (n + 8), flagKey c (n + 12)]
  let w0 := (s.flagAt c n).toNat
  let w1 := (s.flagAt c (n + 4)).toNat
  let exp := w0 % 2 ^ 16
  let arr := w0 / 2 ^ 16
  let scope := w1 / 2 ^ 6 % 4
  let bad := v.toNat % 2 ^ 16 = 0 ∨ v.toNat / 2 ^ 18 % 2 ^ 14 ≠ 0 ∨ s.scopeOk c n (v.toNat / 2 ^ 16 % 4) = false
  n % 16 = 0 → OnFlagPage (s.g a) →
  (bad → Writes (.binit d a b) s d (BitVec.ofInt 64 (-3))) ∧
  (¬ bad → s.isObj c n = true → w1 / 2 ^ 16 ≠ 0 → Writes (.binit d a b) s d (BitVec.ofInt 64 (-9))) ∧
  (¬ bad → s.isObj c n = false ∨ w1 / 2 ^ 16 = 0 →
    Completes (.binit d a b) s fun u =>
      FlagFrame words d 0 s u ∧ (u.flagAt c n).toNat = v.toNat % 2 ^ 16 ∧
      (u.flagAt c (n + 4)).toNat = v.toNat / 2 ^ 16 % 4 * 2 ^ 6 + (if v.toNat / 2 ^ 16 % 4 = 3 ∧ s.myCtx.absent = true then 2 ^ 5 else 0) ∧
      (u.flagAt c (n + 8)).toNat = v.toNat / 2 ^ 32 ∧ u.flagAt c (n + 12) = 0) ∧
  (exp = 0 ∨ s.scopeOk c n scope = false ∨ v.toNat = 0 ∨ 255 < v.toNat → Writes (.barv d a b t) s d (BitVec.ofInt 64 (-3))) ∧
  (exp ≠ 0 → s.scopeOk c n scope = true → scope ≠ 3 → 1 ≤ v.toNat → v.toNat ≤ 255 →
    (arr + v.toNat < exp →
      Completes (.barv d a b t) s fun u =>
        FlagFrame words d (BitVec.ofNat 64 (w1 % 16)) s u ∧ (u.flagAt c n).toNat = exp + (arr + v.toNat) * 2 ^ 16) ∧
    (arr + v.toNat = exp →
      Completes (.barv d a b t) s fun u =>
        FlagFrame words d (BitVec.ofNat 64 (w1 % 16)) s u ∧ (u.flagAt c n).toNat = exp ∧
        (u.flagAt c (n + 4)).toNat % 16 = (w1 + 1) % 16) ∧
    (exp < arr + v.toNat →
      (Completes (.barv d a b false) s fun u =>
        FlagFrame words d (BitVec.ofInt 64 (-8)) s u ∧ u.flagAt c n = s.flagAt c n ∧ (u.flagAt c (n + 4)).getLsbD 4 = true) ∧
      (CanTrap s → Traps (.barv d a b true) s 0x0F 0 (s.g a)))) ∧
  (s.me.pending = [] →
    (∀ w, s.me.latch = some w → Writes (.bwait d a b t) s d w) ∧
    (s.me.latch = none → exp = 0 ∨ s.scopeOk c n scope = false → Writes (.bwait d a b t) s d (BitVec.ofInt 64 (-3))) ∧
    (s.me.latch = none → exp ≠ 0 → s.scopeOk c n scope = true →
      let passed := (w1 % 16 + 16 - v.toNat % 16) % 16
      (1 ≤ passed ∧ passed ≤ 7 → Writes (.bwait d a b t) s d 0) ∧
      (8 ≤ passed → Writes (.bwait d a b t) s d (BitVec.ofInt 64 (-7))) ∧
      (passed = 0 →
        Completes (.bwait d a b t) s fun u =>
          u.me.status = .waiting (.barrier (s.g a) (v.truncate 4) t d 0 none) ∧ RegsSame s u ∧ MemSame s u ∧
          (s.isObj c n = true → (u.flagAt c (n + 4)) = s.flagAt c (n + 4) + 0x00010000#32))))

/-! ### Tasks and frames (major 0x25) and steps (major 0x26) -/

/-- R57, R69, R369, R375 to R377, R417, R418: TPOST and FRDEF capture their bytes after the sequencer's earlier stores, and with FRFREE, LARM
and LPATCH hand one operation to the post sequencer and wait for its result; TPOSTX captures its record, keeps what its answer needs and
goes on, and the record leaves for its destination. -/
def Obligations.TaskPosting : Prop := ∀ (s : State) (d a b c : Reg) (w : Bool) (bs : List Byte),
  ((s.g a).toNat % 256 = 0 → Captured s (s.g a).toNat 256 bs → Completes (.tpost d a w) s (PostQueued d (.task bs) w s)) ∧
  ((s.g b).toNat % 64 = 0 → Captured s (s.g b).toNat 64 bs →
    Completes (.frdef d a b) s (PostQueued d (.frdef (s.g a).toNat bs) false s)) ∧
  (Completes (.frfree d a) s fun t => PostQueued d (.frfree (s.g a).toNat) false s t ∧ MemSame s t) ∧
  Completes (.larm d a) s (PostQueued d (.larm (s.g a).toNat) false s) ∧
  (Completes (.lpatch d a b) s fun t => PostQueued d (.lpatch (s.g a) (s.g b)) false s t ∧ MemSame s t) ∧
  (CanTrap s → (s.g a).toNat % 256 ≠ 0 → Traps (.tpost d a w) s 0x03 0 (s.g a) ∧ Traps (.tpostx a b c w) s 0x03 0 (s.g a)) ∧
  (CanTrap s → (s.g b).toNat % 64 ≠ 0 → Traps (.frdef d a b) s 0x03 0 (s.g b)) ∧
  ((s.g a).toNat % 256 = 0 → (s.g c).toNat % 8 = 0 → Captured s (s.g a).toNat 256 bs →
    (∃ g, s.planAccess (s.seqAgent 0) .write none (s.g c).toNat 8 = .ok s g) → s.myCtx.joined = true →
    let rank := (s.g b).toNat % 2 ^ 12
    (s.g b).toNat / 2 ^ 32 = 0 → (s.g b).toNat / 2 ^ 12 % 2 ^ 4 = 0 →
    Routed s (s.myCtx.packet .request rank (seqAgentId s.cell s.role 0) (.post s.clk.nextId w bs)) →
    Completes (.tpostx a b c w) s fun t =>
      RegsSame s t ∧ WentOn s t 4 ∧ (∀ k, Canonical s → ¬ MyPending s k → t.readKey k = s.readKey k) ∧
      t.fab.remotes = s.fab.remotes ++
        [⟨s.clk.nextId, s.ctxIx, s.cell, s.role, rank, s.g c, (s.g b).toNat / 2 ^ 16 % 2 ^ 16, s.myCell.boxes, s.clk.fs, none, 0⟩] ∧
      ∃ l p, t.fab.out = (l, 0, p) :: s.fab.out ∧ p.dst = rank ∧ p.cls = .request ∧ p.job = s.myCtx.job ∧ p.hops = 1 ∧
        p.body = .post s.clk.nextId w bs)

/-- R80, R416, R420: TSTAT writes the code of its ticket. That UNKNOWN goes before every other answer for a ticket that this context never
received is the model's reading (log entry 32, DEDUCED), and that the ring goes before the watermark is its choice (log entry 40). POSTED to SUSPENDED of a task in flight, ABORTED or CANCELLED while the ring of
abnormal ends holds the task, EXPIRED at or below the watermark,
else RETIRED. -/
def Obligations.TicketStates : Prop := ∀ (s : State) (d a : Reg),
  let n := (s.g a).toNat
  let mine := smGet 0 n s.erg.issuers = s.ctxIx.val + 1
  (¬ mine → Writes (.tstat d a) s d 9) ∧
  (∀ k, mine → s.taskOf n = some k →
    Writes (.tstat d a) s d (match k.state with | .posted => 0 | .ready => 1 | .running => 2 | .ending => 3 | .suspended => 4)) ∧
  (∀ e, mine → s.taskOf n = none → s.erg.abEnds.find? (·.stamp == n) = some e → Writes (.tstat d a) s d (if e.aborted then 6 else 7)) ∧
  (mine → s.taskOf n = none → s.erg.abEnds.find? (·.stamp == n) = none →
    Writes (.tstat d a) s d (if n ≤ s.erg.watermark then 8 else 5))

/-- R225, R232, R352, R371, R372, R408: SSEAL is taken last in its cycle, after every issue of it and after the late ones of a lower SEQ of its
cell. SSEAL by the OWNER of a joined context that is not too far ahead seals STEP, which rises by one, with
the definitions made in it, and returns its number; its refusals are NOT_OWNER, BOUNDS and AHEAD in that order. CRULE and IWDEF record a
definition that holds from STEP + 4 on, or refuse. The OWNER's SSEAL, SSTAT and SWAIT first report a conflict under FAULT. -/
def Obligations.StepChanges : Prop := ∀ (s : State) (d a b : Reg),
  let x := s.myCtx
  let id := (s.g a).toNat
  ((∃ q ∈ s.agenda, q.beforeSeal s.cell s.role = true) →
    exec (.sseal d) s = .next { s with agenda := s.agenda ++ [.late s.cell s.role] }) ∧
  ((∀ q ∈ s.agenda, q.beforeSeal s.cell s.role = false) → ¬ ConflictDue s →
    (s.cell.val ≠ x.owner → Writes (.sseal d) s d (BitVec.ofInt 64 (-10))) ∧
    (s.cell.val = x.owner → x.joined = false → Writes (.sseal d) s d (BitVec.ofInt 64 (-3))) ∧
    (s.cell.val = x.owner → x.joined = true → ComesBefore x.applied (x.step - BitVec.ofNat 32 x.lead) →
      Writes (.sseal d) s d (BitVec.ofInt 64 (-11))) ∧
    (s.cell.val = x.owner → x.joined = true → ¬ ComesBefore x.applied (x.step - BitVec.ofNat 32 x.lead) →
      Completes (.sseal d) s fun t =>
        RegSet s t d (x.step.zeroExtend 64) ∧ WentOn s t 4 ∧ MineAndStores { s with ctxs := t.ctxs } t ∧
        t.ctxs = s.ctxs.set s.ctxIx { x with step := x.step + 1, sealJobs := x.sealJobs ++ [⟨x.step, false, x.newDefs⟩], newDefs := [] })) ∧
  ((x.joined = false ∨ 63 < id ∨ 2 < (s.g b).toNat) → Writes (.crule d a b) s d (BitVec.ofInt 64 (-3))) ∧
  (x.joined = true → id ≤ 63 → (s.g b).toNat ≤ 2 →
    (x.pendingDef id ≠ none → Writes (.crule d a b) s d (BitVec.ofInt 64 (-9))) ∧
    (x.pendingDef id = none → x.inForce id = none → Writes (.crule d a b) s d (BitVec.ofInt 64 (-3))) ∧
    (∀ w, x.pendingDef id = none → x.inForce id = some w →
      Completes (.crule d a b) s fun t =>
        RegSet s t d 0 ∧ WentOn s t 4 ∧ OnlyMine { s with ctxs := t.ctxs } t ∧
        let v := { w with rule := (s.g b).toNat, fromStep := x.step + 4 };
        t.ctxs = s.ctxs.set s.ctxIx { x with wins := x.wins ++ [v], newDefs := x.newDefs ++ [v] })) ∧
  (x.joined = false → Writes (.iwdef d a b) s d (BitVec.ofInt 64 (-3))) ∧
  (CanTrap s → x.joined = true → (s.g a).toNat % 32 ≠ 0 → Traps (.iwdef d a b) s 0x03 0 (s.g a)) ∧
  (∀ key mat bs, x.joined = true → Granted s 0 .read (s.g a).toNat 32 key mat → Readable s key 32 →
    bs = (List.range 32).map (fun i => (SeenBy s 0 key 32).readUnder (key + i) mat) →
    (63 < (s.g b).toNat → Completes (.iwdef d a b) s fun t =>
      RegSet s t d (BitVec.ofInt 64 (-3)) ∧ WentOn s t 4 ∧ MineAndStores s t) ∧
    ((s.g b).toNat ≤ 63 → x.iwdefStatus (s.g b).toNat bs ≠ 0 → Completes (.iwdef d a b) s fun t =>
      RegSet s t d (x.iwdefStatus (s.g b).toNat bs) ∧ WentOn s t 4 ∧ MineAndStores s t) ∧
    ((s.g b).toNat ≤ 63 → x.iwdefStatus (s.g b).toNat bs = 0 → Completes (.iwdef d a b) s fun t =>
      RegSet s t d 0 ∧ WentOn s t 4 ∧ MineAndStores { s with ctxs := t.ctxs } t ∧
      let v := winOf x (s.g b).toNat bs;
      t.ctxs = s.ctxs.set s.ctxIx { x with wins := x.wins ++ [v], newDefs := x.newDefs ++ [v] })) ∧
  (∀ c r (t : Bool), CanTrap s → ConflictDue s → x.conflicts = c :: r → s.me.pending = [] →
    (∀ q ∈ s.agenda, q.beforeSeal s.cell s.role = false) →
    ∀ i ∈ [Instr.sseal d, .sstat d a b, .swait d a t],
      Completes i s fun u => TookTrap 0x0E 0 0 c.2 s.me.pc (s.setCtx s.ctxIx { x with conflicts := [] }) u)

/-- R228, R233, R234, R409, R410: SSTAT reads the boundary record of a sealed step, and says BOUNDS, STALE or BUSY where there is none to
read; SWAIT returns 0 once the boundary has been applied here, BOUNDS for a step not sealed, and waits or times out otherwise. -/
def Obligations.StepWaits : Prop := ∀ (s : State) (d a b : Reg) (t : Bool), ¬ ConflictDue s →
  let x := s.myCtx
  let n : BitVec 32 := (s.g a).truncate 32
  let r := (s.g b).toNat % 2 ^ 16
  ((x.joined = false ∨ (4096 ≤ r ∧ r ≤ 0xFFFE) ∨ ¬ ComesBefore n x.step → Writes (.sstat d a b) s d (BitVec.ofInt 64 (-3))) ∧
    (x.joined = true → ¬ (4096 ≤ r ∧ r ≤ 0xFFFE) → ComesBefore n x.step →
      (16 < (x.step - n).toNat → Writes (.sstat d a b) s d (BitVec.ofInt 64 (-7))) ∧
      ((x.step - n).toNat ≤ 16 →
        ((∃ j ∈ x.sealJobs, j.step = n ∧ j.sent = false) → Writes (.sstat d a b) s d (BitVec.ofInt 64 (-9))) ∧
        ((∀ j ∈ x.sealJobs, j.step = n → j.sent = true) →
          (x.records.find? (·.step == n) = none → Writes (.sstat d a b) s d (BitVec.ofInt 64 (-7))) ∧
          ∀ v, x.records.find? (·.step == n) = some v →
            (v.complete = false → Writes (.sstat d a b) s d (BitVec.ofInt 64 (-9))) ∧
            (v.complete = true → r = 0xFFFF → Writes (.sstat d a b) s d v.summary) ∧
            (v.complete = true → r ≠ 0xFFFF → v.dests.find? (·.rank == r) = none → Writes (.sstat d a b) s d 0) ∧
            ∀ e, v.complete = true → r ≠ 0xFFFF → v.dests.find? (·.rank == r) = some e →
              Writes (.sstat d a b) s d (destWord e.total))))) ∧
  (s.me.pending = [] →
    (∀ v, s.me.latch = some v → Writes (.swait d a t) s d v) ∧
    (s.me.latch = none →
      (x.joined = false ∨ ¬ ComesBefore n x.step → Writes (.swait d a t) s d (BitVec.ofInt 64 (-3))) ∧
      (x.joined = true → ComesBefore n x.step →
        (ComesBefore n x.applied → Writes (.swait d a t) s d 0) ∧
        (¬ ComesBefore n x.applied →
          (s.me.wintmo = 0 → Writes (.swait d a false) s d (BitVec.ofInt 64 (-6))) ∧
          (s.me.wintmo = 0 → CanTrap s → Traps (.swait d a true) s 0x10 0 (n.zeroExtend 64)) ∧
          (s.me.wintmo ≠ 0 → Completes (.swait d a t) s (LeftReady (.step n t d s.me.wintmo.toNat 0 false) s))))))

/-! ### The vector majors 0x28 to 0x2D -/

/-- R165, R166, R421, R422: VADD, VSUB, VMUL and VFMA on integer elements are exact and closed by wrapping or `.sat`, on f32 elements the
rounded operations of R118; VMIN and VMAX give one of their operands, the bit operations act on the bits, and the shifts on integers, where
a shift of the width or more leaves zeros or signs. Lanes from VL on are 0. -/
def Obligations.VectorArithmetic : Prop := ∀ (s : State) (f : VFields) (a b : VReg) (sat : Bool),
  let ty := f.ty.val
  let n := tyBits ty
  let vl := s.myCell.vl.toNat
  let x := fun i => elemOf n a.toNat i
  let y := fun i => elemOf n b.toNat i
  let k := s.fpCtl
  let both := [(f.a.val, 1), (f.b.val, 1)]
  let gives := fun (i : Instr) (srcs : List (Nat × Nat)) (lane : Nat → Nat × BitVec 6) =>
    Completes i s (VectorDone srcs (some f.vd.val) [lanesOf n vl lane] (flagsOf vl lane) s)
  s.role = .C → Reads s f.a.val 1 [a] → Takes s f.vd.val 1 → vl * n ≤ 4096 →
  (Reads s f.b.val 1 [b] →
    (ty < 8 →
      gives (.vadd f sat) both (fun i => (laneClose ty sat (laneInt ty (x i) + laneInt ty (y i)), 0)) ∧
      gives (.vsub f sat) both (fun i => (laneClose ty sat (laneInt ty (x i) - laneInt ty (y i)), 0)) ∧
      gives (.vmul f sat) both (fun i => (laneClose ty sat (laneInt ty (x i) * laneInt ty (y i)), 0)) ∧
      (f.vd.val < 24 → gives (.vfma f) (both ++ [(f.vd.val, 1)]) (fun i => (laneClose ty false
        (laneInt ty (x i) * laneInt ty (y i) + laneInt ty (elemOf n (s.myCell.v[f.vd.val]!).toNat i)), 0))) ∧
      gives (.vmin f) both (fun i => (if laneInt ty (y i) < laneInt ty (x i) then y i else x i, 0)) ∧
      gives (.vmax f) both (fun i => (if laneInt ty (x i) < laneInt ty (y i) then y i else x i, 0)) ∧
      gives (.vshl f) both (fun i => (if n ≤ y i then 0 else x i * 2 ^ y i % 2 ^ n, 0)) ∧
      gives (.vshr f) both (fun i => (laneClose ty false (laneInt ty (x i) / (2 ^ (if y i ≤ n then y i else n) : Nat)), 0))) ∧
    (ty = 12 →
      gives (.vadd f sat) both (fun i => add32 k (x i) (y i)) ∧
      gives (.vsub f sat) both (fun i => sub32 k (x i) (y i)) ∧
      gives (.vmul f sat) both (fun i => mul32 k (x i) (y i)) ∧
      (f.vd.val < 24 → gives (.vfma f) (both ++ [(f.vd.val, 1)]) (fun i =>
        fma32 k (x i) (y i) (elemOf n (s.myCell.v[f.vd.val]!).toNat i))) ∧
      gives (.vmin f) both (fun i => (min32 k.ftz (x i) (y i), 0)) ∧
      gives (.vmax f) both (fun i => (max32 k.ftz (x i) (y i), 0))) ∧
    (ty ≤ 12 →
      gives (.vand f) both (fun i => (x i &&& y i, 0)) ∧
      gives (.vor f) both (fun i => (x i ||| y i, 0)) ∧
      gives (.vxor f) both (fun i => (x i ^^^ y i, 0)))) ∧
  (f.b = 0 →
    (ty < 8 →
      gives (.vabs f) [(f.a.val, 1)] (fun i => (laneClose ty false (laneInt ty (x i)).natAbs, 0)) ∧
      gives (.vneg f) [(f.a.val, 1)] (fun i => (laneClose ty false (-laneInt ty (x i)), 0))) ∧
    (8 ≤ ty → ty ≤ 12 →
      gives (.vabs f) [(f.a.val, 1)] (fun i => (x i % 2 ^ (n - 1), 0)) ∧
      gives (.vneg f) [(f.a.val, 1)] (fun i => (x i ^^^ 2 ^ (n - 1), 0))))

/-- R164, R167, R171, R172, R423, R425, R429: VSEL, VMOV, VCMP, VBC, VIOTA, VPERM and VSETL by lanes; VSETL sets VL to the smaller of its
operand and the type's limit; VPART stores the index of each element by its class and writes the new partition state. -/
def Obligations.VectorMoves : Prop := ∀ (s : State) (f : VFields) (a b : VReg) (cc : Cond),
  let ty := f.ty.val
  let n := tyBits ty
  let vl := s.myCell.vl.toNat
  let x := fun i => elemOf n a.toNat i
  let y := fun i => elemOf n b.toNat i
  let both := [(f.a.val, 1), (f.b.val, 1)]
  let gives := fun (i : Instr) (srcs : List (Nat × Nat)) (lane : Nat → Nat) =>
    Completes i s (VectorDone srcs (some f.vd.val) [lanesOf n vl fun i => (lane i, 0)] 0 s)
  s.role = .C →
  (Takes s f.vd.val 1 → vl * n ≤ 4096 → ty ≤ 12 →
    (Reads s f.a.val 1 [a] →
      (Reads s f.b.val 1 [b] → f.vd.val < 24 →
        gives (.vsel f) (both ++ [(f.vd.val, 1)]) (fun i => if elemOf n (s.myCell.v[f.vd.val]!).toNat i = 0 then y i else x i)) ∧
      (f.b = 0 → gives (.vmov f) [(f.a.val, 1)] x) ∧
      (Reads s f.b.val 1 [b] → ty < 8 →
        let e := fun z : Nat => if cc = .lt ∨ cc = .ge then (BitVec.ofNat n z).signExtend 64 else BitVec.ofNat 64 z;
        ∀ p : Nat → Bool, (∀ i, p i = true ↔ holdsOn cc (e (x i)) (e (y i))) →
        gives (.vcmp f cc) both (fun i => if p i then 1 else 0)) ∧
      (Reads s f.b.val 1 [b] → ty = 12 → cc ≠ .ltn → cc ≠ .gen →
        gives (.vcmp f cc) both (fun i => if condF32 cc s.fpCtl.ftz (x i) (y i) then 1 else 0)) ∧
      (Reads s f.b.val 1 [b] → vl ≤ 256 →
        gives (.vperm f) both (fun i => if elemOf 16 b.toNat i < vl then x (elemOf 16 b.toNat i) else 0))) ∧
    (f.b = 0 → gives (.vbc f) [] (fun _ => (s.g f.a).toNat % 2 ^ n)) ∧
    (f.a = 0 → f.b = 0 → ty < 8 → gives (.viota f) [] (fun i => i % 2 ^ n))) ∧
  (Takes s f.vd.val 1 → Reads s f.a.val 1 [a] → f.b = 0 → 13 ≤ ty → vl ≤ vlMax ty → vl % 16 = 0 →
    Completes (.vmov f) s (VectorDone [(f.a.val, 1)] (some f.vd.val)
      [BitVec.ofNat 4096 (a.toNat % 2 ^ (8 * bxBytes ty * (vl / 16)))] 0 s)) ∧
  (f.b = 0 →
    let m := if (s.g f.a).toNat ≤ vlMax ty then (s.g f.a).toNat else vlMax ty;
    Completes (.vsetl f) s fun t =>
      RegSet s t f.vd (BitVec.ofNat 64 m) ∧ WentOn s t 4 ∧ OnlyMine (s.setMyCell { s.myCell with vl := BitVec.ofNat 11 m }) t) ∧
  (∀ u, Takes s f.vd.val 1 → Reads s f.a.val 1 [a] → Reads s f.b.val 1 [b] → vl * n ≤ 4096 → ty = 3 ∨ ty = 5 ∨ ty = 7 →
    partValid b s.myCell.boxes.length = true → s.slotsFull = false →
    s.partStores (partByte b 101 1) (partRun b ((List.range vl).map x)).stores.reverse = .ok u () → Takes u f.vd.val 1 →
    Completes (.vpart f) s (VectorDone both (some f.vd.val) [partOut b (partRun b ((List.range vl).map x)) vl] 0 u))

/-- R128, R170, R179, R424, R426, R430: VCVT, VWID and VNAR convert every element between types of one width, to a wider and to a narrower one,
with groups of the ratio of the widths; VSF applies a special function to each f32 lane, and VRED
combines the lanes over the fixed tree, with FTZ on the operands of its f32 arithmetic. -/
def Obligations.VectorConversions : Prop := ∀ (s : State) (f : VFields) (tyD : Fin 16) (regs : List VReg) (a : VReg) (fn : SfFn)
    (op : RedOp) (sat : Bool),
  let ty := f.ty.val
  let vl := s.myCell.vl.toNat
  let converts := fun (i : Instr) (kS kD : Nat) =>
    Reads s f.a.val kS regs → Takes s f.vd.val kD → vl ≤ kS * vlMax ty → vl ≤ kD * vlMax tyD.val →
    (13 ≤ ty ∨ 13 ≤ tyD.val → vl % 16 = 0) →
    let r := convRegs tyD.val kD sat s.fpCtl.rm (groupVals ty regs vl);
    Completes i s (VectorDone [(f.a.val, kS)] (some f.vd.val) r.1 r.2 s)
  let w := convWidth ty
  let v := convWidth tyD.val
  s.role = .C → f.b = 0 →
  (convPair ty tyD.val sat = true →
    (v = w → converts (.vcvt f tyD sat) 1 1) ∧
    (v = 2 * w → converts (.vwid f tyD sat) 1 2) ∧ (v = 4 * w → converts (.vwid f tyD sat) 1 4) ∧
    (w = 2 * v → converts (.vnar f tyD sat) 2 1) ∧ (w = 4 * v → converts (.vnar f tyD sat) 4 1)) ∧
  (Reads s f.a.val 1 [a] → Takes s f.vd.val 1 →
    (ty = 12 → vl ≤ 128 →
      let lane := fun i => sf32 fn s.fpCtl.ftz (elemOf 32 a.toNat i);
      Completes (.vsf f fn) s (VectorDone [(f.a.val, 1)] (some f.vd.val) [lanesOf 32 vl lane] (flagsOf vl lane) s)) ∧
    (redType op ty = true → vl * tyBits ty ≤ 4096 →
      let arith := op = .add ∨ op = .min ∨ op = .max
      let l := (List.range vl).map fun i =>
        let x := elemOf (tyBits ty) a.toNat i
        (if arith ∧ ty = 12 ∧ s.fpCtl.ftz = true then ftzCode true x else x, (0 : BitVec 6));
      (vl = 0 → Completes (.vred f op) s (VectorDone [(f.a.val, 1)] (some f.vd.val) [0] 0 s)) ∧
      (1 ≤ vl →
        let r := treeFold (redCombine op ty s.fpCtl) 11 (0, 0) l;
        Completes (.vred f op) s (VectorDone [(f.a.val, 1)] (some f.vd.val) [regOf (tyBits ty) [r.1]] r.2 s))))

/-! ### Moments (major 0x2E) and the short tile group (major 0x2F) -/

/-- R177 to R181, R393 to R395: MCLR writes the empty value, MUPD and MUPDW merge the tree over the elements, which VL = 0 leaves out, MMRG
merges two moments, MGET writes a field or a half, MNORM normalises f32 elements with the ε of element 0; MLD and MST move 16 bytes. -/
def Obligations.MomentOps : Prop := ∀ (s : State) (f : VFields) (x y : VReg) (d a b : Fin 16) (key mat : Nat),
  let ty := f.ty.val
  let vl := s.myCell.vl.toNat
  let m := s.myCell.m
  let numeric := ty < 6 ∨ (8 ≤ ty ∧ ty ≤ 12)
  s.role = .C →
  (f.vd.val = d.val → f.a = 0 → f.b = 0 → ty = 0 →
    Completes (.mclr f) s (MomentDone [] (m.set d (BitVec.ofNat 128 (0x7FC0E000 * 2 ^ 64))) s)) ∧
  (f.vd.val = d.val → numeric → vl * tyBits ty ≤ 4096 → Reads s f.a.val 1 [x] →
    (f.b = 0 → Completes (.mupd f) s (MomentDone [(f.a.val, 1)]
      (if vl = 0 then m else m.set d (momMerge m[d] (momTree ((momVals ty [x] vl).map fun v => (v, 0x3F800000))))) s)) ∧
    (Reads s f.b.val 1 [y] → vl ≤ 128 → Completes (.mupdw f) s (MomentDone [(f.a.val, 1), (f.b.val, 1)]
      (if vl = 0 then m else m.set d (momMerge m[d] (momTree ((momVals ty [x] vl).zip (momWeights [y] vl))))) s))) ∧
  (f.vd.val = d.val → f.a.val = a.val → f.b.val = b.val → ty = 0 →
    Completes (.mmrg f) s (MomentDone [] (m.set d (momMerge m[a] m[b])) s)) ∧
  (f.a.val = a.val → f.b = 0 →
    (ty < 4 → Writes (.mget f) s f.vd (BitVec.ofNat 64 (m[a].toNat / 2 ^ (32 * ty) % 2 ^ 32))) ∧
    (ty = 4 ∨ ty = 5 → Writes (.mget f) s f.vd (m[a].extractLsb' (64 * (ty - 4)) 64))) ∧
  (Reads s f.a.val 1 [x] → Reads s f.b.val 1 [y] → Takes s f.vd.val 1 → vl ≤ 128 →
    Completes (.mnorm f) s (VectorDone [(f.a.val, 1), (f.b.val, 1)] (some f.vd.val)
      [lanesOf 32 vl fun i => (momNorm (elemOf 32 x.toNat i) m[f.ty] (elemOf 32 y.toNat 0), 0)] 0 s)) ∧
  (f.vd.val = d.val → f.b = 0 → ty < s.myCell.boxes.length →
    (CanTrap s → (s.g f.a).toNat % 16 ≠ 0 → Traps (.mld f) s 0x03 0 (s.g f.a) ∧ Traps (.mst f) s 0x03 0 (s.g f.a)) ∧
    ((s.g f.a).toNat % 16 = 0 → s.slotsFull = false → Readable s key 16 →
      (GrantedIn s 0 (some ty) .read (s.g f.a).toNat 16 key mat → Completes (.mld f) s fun t =>
        RegsSame s t ∧ WentOn s t 4 ∧ MineAndStores (s.setMyCell { s.myCell with m := t.myCell.m }) t ∧
        t.myCell.m = m.set d (BitVec.ofNat 128 (valueAt (SeenBy s 0 key 16) key 16 mat))) ∧
      (GrantedIn s 0 (some ty) .write (s.g f.a).toNat 16 key mat → Completes (.mst f) s
        (Stored (storeBytes s (s.g f.a).toNat key mat ((List.range 16).map fun i => m[d].extractLsb' (8 * i) 8)) s))))

/-- R148, R334, R335, R367: AZERO clears its rows once no earlier MMA is to write them, and traps on a bad count and outside the region;
FMTQ pushes a word; AGLD reads 64 bytes and makes them, with an absolute base, the shadow at the end of its cycle, and AGST stores a
shadow. -/
def Obligations.TileOps : Prop := ∀ (s : State) (a b : Reg) (n : Fin 8) (imm : BitVec 10) (key mat : Nat),
  let row := (s.g a).toNat
  let k := (s.g b).toNat
  let x := s.myCell
  let va : Word := s.g a + BitVec.ofInt 64 (imm.toInt * 64)
  (s.role = .C →
    (CanTrap s → (k < 1 ∨ 2048 < k ∨ 2048 < row + k) → Traps (.azero a b) s 0x01 0x13 0) ∧
    (∀ i < k, CanTrap s → 1 ≤ k → k ≤ 2048 → row + k ≤ 2048 → (row + i < x.accFirst ∨ x.accEnd ≤ row + i) →
      (∀ j < i, x.accFirst ≤ row + j ∧ row + j < x.accEnd) → Traps (.azero a b) s 0x06 0x05 (BitVec.ofNat 64 (row + i))) ∧
    (Canonical s → 1 ≤ k → k ≤ 2048 → row + k ≤ 2048 → x.accFirst ≤ row → row + k ≤ x.accEnd → (∀ i < k, s.rowBusy s.cell (row + i) = false) →
      Completes (.azero a b) s fun t =>
        RegsSame s t ∧ WentOn s t 4 ∧ OnlyMine { s with mem := { s.mem with acc := t.mem.acc, badAcc := t.mem.badAcc, softAcc := t.mem.softAcc } } t ∧
        (∀ i < k, t.accRow s.cell (row + i) = 0) ∧
        ∀ c r, r < 2048 → ¬ (c = s.cell ∧ row ≤ r ∧ r < row + k) → t.accRow c r = s.accRow c r)) ∧
  (s.role = .K →
    (x.fmtq.length < 16 → Completes (.fmtq a) s fun t =>
      RegsSame s t ∧ WentOn s t 4 ∧ OnlyMine (s.setMyCell { x with fmtq := x.fmtq ++ [s.g a] }) t) ∧
    (16 ≤ x.fmtq.length → Completes (.fmtq a) s (LeftReady .fmtFull s))) ∧
  (s.role ≠ .C →
    (CanTrap s → va.toNat % 64 ≠ 0 → Traps (.agld n a imm) s 0x03 0 va ∧ Traps (.agst n a imm) s 0x03 0 va) ∧
    (va.toNat % 64 = 0 → s.slotsFull = false → Readable s key 64 →
      (∀ w : AgImage, GrantedIn s 0 none .read va.toNat 64 key mat → w = BitVec.ofNat 512 (valueAt (SeenBy s 0 key 64) key 64 mat) →
        (agValid w x.boxes.length = true → Completes (.agld n a imm) s fun t =>
          RegsSame s t ∧ WentOn s t 4 ∧
          MineAndStores (s.setMyCell { x with agNew := x.agNew ++ [(n, absTable w x.boxes)] }) t) ∧
        (agValid w x.boxes.length = false → CanTrap s → Traps (.agld n a imm) s 0x01 0x11 0)) ∧
      (GrantedIn s 0 none .write va.toNat 64 key mat → Completes (.agst n a imm) s
        (Stored (storeBytes s va.toNat key mat ((List.range 64).map fun i => x.ag[n].extractLsb' (8 * i) 8)) s))))

/-- R242, R252, R341, R342: CARM refuses reserved bits, an armed entry and a descriptor that R242 does not allow, arms a free entry of the
collective engine of its die with T0 as its trigger flag stands, and disarms an entry of its own context, at once or after its run. -/
def Obligations.ArmingResults : Prop := ∀ (s : State) (d a b : Reg) (e : Fin 16) (key mat : Nat),
  let v := (s.g b).toNat
  let die := dieOf s.cell
  let bounds := BitVec.ofInt 64 (-3)
  s.role = .K →
  (v / 2 ^ 9 ≠ 0 ∨ v / 2 ^ 4 % 2 ^ 4 ≠ 0 → Writes (.carm d a b) s d bounds) ∧
  (v = e.val + 2 ^ 8 →
    (s.col.entries[die][e] = none → Writes (.carm d a b) s d bounds) ∧
    (∀ x, s.col.entries[die][e] = some x → x.ctx ≠ s.ctxIx → Writes (.carm d a b) s d bounds) ∧
    (∀ x, s.col.entries[die][e] = some x → x.ctx = s.ctxIx → Completes (.carm d a b) s fun t =>
      RegSet s t d 0 ∧ WentOn s t 4 ∧
      OnlyMine (s.setEntry die e (if s.entryRuns die e then some { x with disarm := true } else none)) t)) ∧
  (v = e.val →
    (∀ x, s.col.entries[die][e] = some x → Writes (.carm d a b) s d (BitVec.ofInt 64 (-9))) ∧
    (s.col.entries[die][e] = none →
      (CanTrap s → (s.g a).toNat % 64 ≠ 0 → Traps (.carm d a b) s 0x03 0 (s.g a)) ∧
      ∀ w : AgImage, (s.g a).toNat % 64 = 0 → s.slotsFull = false → GrantedIn s 0 none .read (s.g a).toNat 64 key mat → Readable s key 64 →
        w = BitVec.ofNat 512 (valueAt (SeenBy s 0 key 64) key 64 mat) →
        (collValid w true = false → Completes (.carm d a b) s fun t => RegSet s t d bounds ∧ WentOn s t 4 ∧ MineAndStores s t) ∧
        (collValid w true = true → Completes (.carm d a b) s fun t =>
          RegSet s t d 0 ∧ WentOn s t 4 ∧
          MineAndStores (s.setEntry die e (some ⟨s.ctxIx, w, s.flagAt s.ctxIx (deviceFlagAddr (collTrig w)), 0, false, true⟩)) t)))

/-! ### Long forms (majors 0x30 to 0x3C) -/

/-- R135, R143, R144, R325, R382 to R385, R427, R428: LDA latches its table and takes its ring rows; LDB notes its table for its buffer; LDV
and VGATH reserve an entry for every 512 bytes, and wait for room with their takes made. A table that is all zero, or whose AgBytes does
not fit, traps, and so does an element type that VGATH does not have. -/
def Obligations.LoadCommands : Prop := ∀ (s : State) (n : Fin 8) (b q : Fin 2) (r : Reg) (ty : Fin 16) (e : EngWord),
  let x := s.myCell
  let t := x.ag[n]
  let len := agBytes t
  let bytes := len / 4 * (tyBits ty.val / 8)
  let into := fun (k : Nat) => (List.range k).map fun i => s.clk.nextId + i
  let queue := fun (k : Nat) => { x with dq := x.dq.set q.val (x.dq[q.val] ++ (into k).map fun i => ⟨i, none⟩) }
  let entries := (len + 511) / 512
  let gathered := (bytes + 511) / 512
  let elements := 2 ≤ ty.val ∧ ty.val ≤ 12
  let listed := len % 4 = 0 ∧ 1 ≤ bytes ∧ bytes ≤ 4096
  let q4 : Fin 4 := ⟨q.val, by omega⟩
  s.role = .L → CanIssue .load e s →
  (t ≠ 0 →
    (len % 72 = 0 → 72 ≤ len → Completes (.lda n e) s (Issued .load e (.lda t x.ringNext (len / 72)) 0
      { x with
        ringNext := x.ringNext + len / 72
        ldaRecs := (x.ldaRecs.filter fun r => decide (x.ringHead < r.first + r.rows)) ++ [⟨t, x.ringNext, len / 72⟩] } s)) ∧
    (len = 18432 → Completes (.ldb n b e) s (Issued .load e (.ldb b t) 0
      { x with bsrc := x.bsrc.set b (some (t, x.ldbCount + 1)), ldbCount := x.ldbCount + 1 } s)) ∧
    (1 ≤ len → len ≤ 4096 →
      (x.dq[q.val].length + entries ≤ 8 →
        Completes (.ldv q n e) s (Issued .load e (.ldv q t (into entries)) entries (queue entries) s)) ∧
      (8 < x.dq[q.val].length + entries → Completes (.ldv q n e) s (WaitsHolding e (.pushQueue q4 entries) s))) ∧
    (elements → listed →
      (x.dq[q.val].length + gathered ≤ 8 → Completes (.vgath q n r ty e) s
        (Issued .load e (.vgath q t (s.g r) ty.val (into gathered)) gathered (queue gathered) s)) ∧
      (8 < x.dq[q.val].length + gathered → Completes (.vgath q n r ty e) s (WaitsHolding e (.pushQueue q4 gathered) s))) ∧
    (CanTrap s → len ≠ 18432 → Traps (.ldb n b e) s 0x01 0x12 0) ∧
    (CanTrap s → (len % 72 ≠ 0 ∨ len = 0) → Traps (.lda n e) s 0x01 0x12 0) ∧
    (CanTrap s → (len < 1 ∨ 4096 < len) → Traps (.ldv q n e) s 0x01 0x12 0) ∧
    (CanTrap s → elements → ¬ listed → Traps (.vgath q n r ty e) s 0x01 0x12 0)) ∧
  (CanTrap s → ¬ elements → Traps (.vgath q n r ty e) s 0x01 0x19 0) ∧
  (CanTrap s → t = 0 → elements → ∀ i ∈ [Instr.lda n e, .ldb n b e, .ldv q n e, .vgath q n r ty e], Traps i s 0x01 0x11 0)

/-- R135, R140 to R142, R146, R149, R150, R173, R174, R344, R355, R398: MMA pops a format word and takes its rows from the ring, which KEEP
leaves in place; while the format queue is empty and K runs it waits for a word with its takes made. DRAIN latches its tables and the
MMAs before it; CHAIN its descriptor, tables and FPCTL. Each traps where its rows, its types, its tables or its descriptor do not fit. -/
def Obligations.MatrixCommands : Prop := ∀ (s : State) (a b ge : Reg) (buf : Fin 2) (z k : Bool) (agD agM : Fin 8) (mode : DrainMode)
    (ty : Fin 16) (sat : Bool) (lh : Fin 8) (e : EngWord),
  let x := s.myCell
  let row := (s.g a).toNat
  let n := (s.g b).toNat
  let rows := 1 ≤ n ∧ n ≤ 2048 ∧ row + n ≤ 2048
  let inRegion := rows ∧ x.accFirst ≤ row ∧ row + n ≤ x.accEnd
  let leaves := fun (i : Nat) => i < n ∧ (row + i < x.accFirst ∨ x.accEnd ≤ row + i) ∧ ∀ j < i, x.accFirst ≤ row + j ∧ row + j < x.accEnd
  let typed := drainTypeOk ty.val sat lh.val = true
  let whole := 13 ≤ ty.val → n % 2 ^ lh.val = 0
  let tD := x.ag[agD]
  let tM := x.ag[agM]
  let drain := Instr.drain a b agD agM ge mode ty sat lh e
  (s.role = .C → CanIssue .matrix e s → inRegion → (k = true → n ≤ 256) →
    (∀ fw ws, x.fmtq = fw :: ws → fmtValid fw = true →
      let h := 2 ^ (fw.toNat / 2 ^ 8 % 2 ^ 3)
      (n % h = 0 → x.ringHead % h = 0 →
        Completes (.mma a b buf z k e) s (Issued .matrix e (.mma row n x.ringHead buf fw z k 0) 0
          { x with fmtq := ws, ringHead := if k then x.ringHead else x.ringHead + n } s)) ∧
      (CanTrap s → n % h ≠ 0 ∨ x.ringHead % h ≠ 0 → Traps (.mma a b buf z k e) s 0x01 0x13 0)) ∧
    (∀ fw ws, CanTrap s → x.fmtq = fw :: ws → fmtValid fw = false → Traps (.mma a b buf z k e) s 0x01 0x10 0) ∧
    (x.fmtq = [] → (x.seqOf .K).status ≠ .ended → Completes (.mma a b buf z k e) s (WaitsHolding e .fmtEmpty s)) ∧
    (x.fmtq = [] → (x.seqOf .K).status = .ended → CanTrap s → ∃ v, Traps (.mma a b buf z k e) s 0x09 0 v)) ∧
  (s.role = .C → CanIssue .matrix e s → CanTrap s →
    (¬ rows ∨ (k = true ∧ 256 < n) → Traps (.mma a b buf z k e) s 0x01 0x13 0) ∧
    (rows → (k = true → n ≤ 256) → ∀ i, leaves i → Traps (.mma a b buf z k e) s 0x06 0x05 (BitVec.ofNat 64 (row + i)))) ∧
  (s.role = .S → CanIssue .drain e s → inRegion → typed → whole → tD ≠ 0 → agBytes tD = n * drainBytes ty.val →
    (mode = .plain → Completes drain s (Issued .drain e
      (.drain row n mode ty.val sat lh.val tD 0 ((s.g ge).truncate 32) s.mmasBefore) 0 x s)) ∧
    (mode ≠ .plain → tM ≠ 0 → agBytes tM = 16 * n → Completes drain s (Issued .drain e
      (.drain row n mode ty.val sat lh.val tD tM ((s.g ge).truncate 32) s.mmasBefore) 0 x s))) ∧
  (s.role = .S → CanIssue .drain e s → CanTrap s →
    (¬ typed → Traps drain s 0x01 0x15 0) ∧
    (typed → ¬ rows ∨ ¬ whole → Traps drain s 0x01 0x13 0) ∧
    (typed → rows → whole → ∀ i, leaves i → Traps drain s 0x06 0x05 (BitVec.ofNat 64 (row + i))) ∧
    (typed → inRegion → whole → tD = 0 ∨ (mode ≠ .plain ∧ tM = 0) → Traps drain s 0x01 0x11 0) ∧
    (typed → inRegion → whole → tD ≠ 0 → (mode ≠ .plain → tM ≠ 0) →
      agBytes tD ≠ n * drainBytes ty.val ∨ (mode ≠ .plain ∧ agBytes tM ≠ 16 * n) → Traps drain s 0x01 0x12 0)) ∧
  (s.role = .C → CanIssue .chain e s → CanTrap s → (s.g a).toNat % 64 ≠ 0 → Traps (.chain a e) s 0x03 0 (s.g a)) ∧
  (∀ d, s.role = .C → CanIssue .chain e s → Described s a e d →
    let tA := x.ag[chainAg d 0]
    let tB := x.ag[chainAg d 4]
    let tD := x.ag[chainAg d 8]
    let latched := tA ≠ 0 ∧ (chainBen d = true → tB ≠ 0) ∧ tD ≠ 0
    let fits := chainValid d = true ∧ chainFits d tA tB tD = true
    (fits → latched →
      Completes (.chain a e) s (Issued .chain e (.chain d x.fpctl tA (if chainBen d then tB else 0) tD 0) 0 x s)) ∧
    (CanTrap s → ¬ fits → Traps (.chain a e) s 0x01 0x16 0) ∧
    (CanTrap s → fits → ¬ latched → Traps (.chain a e) s 0x01 0x11 0))

/-- R154, R348, R386, R402, R413, R427, R428, R434, R435: STV and VSCAT take their entries from the head of an outbound queue, and wait for
them with their takes made; CPY and XPOSE latch two tables of one size; NMV and COLL latch the descriptor that they read. A table that is
all zero or does not fit, an element type that VSCAT does not have, a bad parameter or descriptor and a misaligned one trap. -/
def Obligations.StoreAndCopyCommands : Prop := ∀ (s : State) (n m : Fin 8) (q : Fin 2) (r : Reg) (ty : Fin 16) (e : EngWord),
  let x := s.myCell
  let t := x.ag[n]
  let u := x.ag[m]
  let len := agBytes t
  let bytes := len / 4 * (tyBits ty.val / 8)
  let elements := 2 ≤ ty.val ∧ ty.val ≤ 12
  let listed := len % 4 = 0 ∧ 1 ≤ bytes ∧ bytes ≤ 4096
  let out := x.dq[q.val + 2]
  let rest := fun (k : Nat) => { x with dq := x.dq.set (q.val + 2) (out.drop k) }
  let filled := fun (data : List VReg) => (out.take data.length).map (·.data) = data.map some
  let lacks := fun (k : Nat) => out.length < k ∨ ∃ y ∈ out.take k, y.data = none
  let q4 : Fin 4 := ⟨q.val + 2, by omega⟩
  (s.role = .S → CanIssue .drain e s →
    (t ≠ 0 → 1 ≤ len → len ≤ 4096 →
      (∀ data : List VReg, data.length = (len + 511) / 512 → filled data →
        Completes (.stv q n e) s (Issued .drain e (.stv t data) 0 (rest data.length) s)) ∧
      (lacks ((len + 511) / 512) → Completes (.stv q n e) s (WaitsHolding e (.popQueue [(q4, (len + 511) / 512)]) s))) ∧
    (t ≠ 0 → elements → listed →
      (∀ data : List VReg, data.length = (bytes + 511) / 512 → filled data →
        Completes (.vscat q n r ty e) s (Issued .drain e (.vscat t (s.g r) ty.val data) 0 (rest data.length) s)) ∧
      (lacks ((bytes + 511) / 512) →
        Completes (.vscat q n r ty e) s (WaitsHolding e (.popQueue [(q4, (bytes + 511) / 512)]) s))) ∧
    (CanTrap s → t = 0 → Traps (.stv q n e) s 0x01 0x11 0 ∧ (elements → Traps (.vscat q n r ty e) s 0x01 0x11 0)) ∧
    (CanTrap s → t ≠ 0 → (len < 1 ∨ 4096 < len → Traps (.stv q n e) s 0x01 0x12 0) ∧
      (elements → ¬ listed → Traps (.vscat q n r ty e) s 0x01 0x12 0)) ∧
    (CanTrap s → ¬ elements → Traps (.vscat q n r ty e) s 0x01 0x19 0)) ∧
  (CanIssue .copy e s →
    (t ≠ 0 → u ≠ 0 → len = agBytes u → len < 2 ^ 32 → Completes (.cpy m n e) s (Issued .copy e (.cpy u t) 0 x s)) ∧
    (CanTrap s → t ≠ 0 → u ≠ 0 → len ≠ agBytes u ∨ 2 ^ 32 ≤ len → Traps (.cpy m n e) s 0x01 0x12 0) ∧
    (CanTrap s → t = 0 ∨ u = 0 → Traps (.cpy m n e) s 0x01 0x11 0)) ∧
  (CanIssue .xpose e s →
    (∀ rows cols w : Nat, 1 ≤ rows → rows < 2 ^ 16 → 1 ≤ cols → cols < 2 ^ 16 → w < 4 →
      (s.g r).toNat = rows + cols * 2 ^ 16 + w * 2 ^ 32 →
      let fit := len = rows * cols * 2 ^ w ∧ agBytes u = rows * cols * 2 ^ w ∧ len < 2 ^ 32
      (t ≠ 0 → u ≠ 0 → fit → Completes (.xpose m n r e) s (Issued .xpose e (.xpose u t (s.g r)) 0 x s)) ∧
      (CanTrap s → t ≠ 0 → u ≠ 0 → ¬ fit → Traps (.xpose m n r e) s 0x01 0x12 0) ∧
      (CanTrap s → t = 0 ∨ u = 0 → Traps (.xpose m n r e) s 0x01 0x11 0)) ∧
    (CanTrap s → (s.g r).toNat % 2 ^ 16 = 0 ∨ (s.g r).toNat / 2 ^ 16 % 2 ^ 16 = 0 ∨ 4 ≤ (s.g r).toNat / 2 ^ 32 →
      Traps (.xpose m n r e) s 0x01 0x20 0)) ∧
  (CanTrap s → (s.g r).toNat % 64 ≠ 0 →
    (s.role = .L → CanIssue .nmv e s → Traps (.nmv r e) s 0x03 0 (s.g r)) ∧ (CanIssue .coll e s → Traps (.coll r e) s 0x03 0 (s.g r))) ∧
  (∀ d, Described s r e d →
    (s.role = .L → CanIssue .nmv e s →
      (nmvValid d x.boxes.length = true → s.myCtx.nmvOutside d = none →
        Completes (.nmv r e) s (Issued .nmv e (.nmv d none) 0 x s)) ∧
      (nmvValid d x.boxes.length = false → CanTrap s → Traps (.nmv r e) s 0x01 0x14 0) ∧
      (∀ v, nmvValid d x.boxes.length = true → s.myCtx.nmvOutside d = some v → CanTrap s →
        Traps (.nmv r e) s 0x05 0x0A (BitVec.ofNat 64 v))) ∧
    (CanIssue .coll e s →
      (collValid d false = true → Completes (.coll r e) s (Issued .coll e (.coll d) 0 x s)) ∧
      (collValid d false = false → CanTrap s → Traps (.coll r e) s 0x01 0x1D 0)))

/-! ### The engines -/

/-- R29, R145, R146, R147, R156, R204, R264, R386: a queued command that nothing before it holds back starts at the head of its queue, an MMA
with a copy of its B buffer; with a guard the flag decides: 0 holds it, 1 starts it, another value discards it with its gives made, and one
above 2 is logged. A held command decides in the same way on the first other value that is written, shown on FSET. A fault that its next unit
meets stops it, pending for its sequencer. That an MMA copies its B buffer whole at its start is log entry 6 (DESIGN CHOICE). -/
def Obligations.EngineStartsAndFaults : Prop := ∀ (s : State) (m : Cmd),
  let logs := fun (c : Fin 256) (v : BitVec 32) => Logged 5 c.val (m.guard.toNat + m.ctx.val * 2 ^ 8) (v.zeroExtend 64)
  (Foremost s m → (∀ r ∈ s.col.runs, r.src ≠ .cmd m.id) →
    let ev := Instr.engineQueueHead m.id
    (∀ k, m.owner = .task k → m.op.isMma = false → (∀ d, m.op ≠ .coll d) → exec ev s = .next (s.setCmd { m with state := .started })) ∧
    (∀ c q, m.owner = .seq c q →
      let v := s.flagAt m.ctx (cellFlagAddr c m.guard.toNat)
      (m.guard = 0 ∨ v = 1 →
        (m.op.isMma = false → (∀ d, m.op ≠ .coll d) → exec ev s = .next (s.setCmd { m with state := .started })) ∧
        (∀ a n q b fw z k r, m.op = .mma a n q b fw z k r →
          exec ev s = .next (s.setCmd { m with state := .started, op := .mma a n q b fw z k (s.cellAt c).bbuf[b] }))) ∧
      (m.guard ≠ 0 → v = 0 → exec ev s = .next (s.setCmd { m with state := .guarded })) ∧
      (m.guard ≠ 0 → 2 ≤ v.toNat → ∃ t u, exec ev s = .next t ∧ Discarded m c q u t ∧ (v = 2 → u = s) ∧ (v ≠ 2 → logs c v s u)))) ∧
  (∀ (c : Fin 256) (q : Role) (a b : Reg), m.owner = .seq c q → s.cmds.filter (fun x => x.id == m.id) = [m] →
    s.cmds.filter (fun x => x.ctx == s.ctxIx && x.guardAddr == some (s.g a).toNat) = [m] → (∀ d, m.op ≠ .coll d) →
    (s.g a).toNat % 4 = 0 → OnFlagPage (s.g a) → ¬ IsBarrierWord s s.ctxIx (s.g a).toNat →
    let v : BitVec 32 := (s.g b).truncate 32
    Completes (.fset a b) s fun t =>
      (v = 0 → t.cmds = s.cmds) ∧
      (v = 1 → m.op.isMma = false → t.cmds = (s.setCmd { m with state := .started }).cmds) ∧
      (v = 1 → ∀ a n q b fw z k r, m.op = .mma a n q b fw z k r →
        t.cmds = (s.setCmd { m with state := .started, op := .mma a n q b fw z k (s.cellAt c).bbuf[b] }).cmds) ∧
      (2 ≤ v.toNat → t.cmds = s.cmds.filter (fun x => x.id != m.id) ∧ GivenUp m q (s.cellAt c) (t.cellAt c) ∧
        ∃ u, t.mgmt = u.mgmt ∧ (v = 2 → u = s) ∧ (v ≠ 2 → logs c v s u))) ∧
  (∀ c q f k, Runs s m → m.owner = .seq c q → s.nextUnit m = .fault f → m.prog < m.total → f.ue = none →
    s.taskOf m.stamp = some k → k.req = none →
    (s.seqAt c q).pending = [] → (s.seqAt c q).status = .ready → (∀ d x, m.op ≠ .nmv d x) →
    ∃ t, exec (.engineCommandFault m.id) s = .next t ∧
      t.cmds = (s.setCmd { m with state := .faulted, stalled := 0 }).cmds ∧
      (t.seqAt c q).pending = [⟨m.id, f.code, f.detail, f.level, f.eval, m.prog, engCode m.eng, m.stream⟩] ∧
      (∀ d r, ¬ (d = c ∧ r = q) → t.seqAt d r = s.seqAt d r) ∧ MemSame s t ∧ t.erg = s.erg ∧ t.ctxs = s.ctxs)

/-- R36, R134, R135, R146, R147, R385, R428: one unit at a time a row of an LDA arrives in the ring, a row of an MMA is updated in one
indivisible write, and a reserved entry of an inbound queue is filled. -/
def Obligations.EngineUnits : Prop := ∀ (s : State) (m : Cmd), Runs s m → m.prog < m.total →
  let c := m.cellOf
  let next := { m with prog := m.prog + 1, stalled := 0 }
  (∀ t q0 n u bs, m.op = .lda t q0 n → let q := q0 + m.prog
    (q < 256 ∨ s.rowFree c (q - 256) = true) → s.readStream (s.cmdAgent m) t (72 * m.prog) 72 = .ok u bs → u.rowFree c q = false →
    u.cells = s.cells → u.cmds = s.cmds → m.eng = .load →
    ∃ w, exec (.aRingRowDelivery m.id) s = .next w ∧ UnitFrame m c u w ∧ w.mem = { u.mem with walks := w.mem.walks } ∧
      w.cmds = (s.setCmd next).cmds ∧
      w.cellAt c = { u.cellAt c with ring := (u.cellAt c).ring ++ [(q, BitVec.ofNat 576 (natOf bs))] }) ∧
  (∀ a n q0 b fw z k arr grp, m.op = .mma a n q0 b fw z k arr → let h := 2 ^ (fw.toNat / 2 ^ 8 % 2 ^ 3)
    let row := a + m.prog
    s.rowAfter m c row = false → ringGroup (s.cellAt c).ring h (q0 + m.prog / h * h) = some grp →
    (z = true ∨ ∀ j < 256, accKey c row * 256 + j ∉ s.mem.badAcc) → row < 2048 → Canonical s → m.eng = .matrix →
    ∃ w, exec (.rowUpdate m.id) s = .next w ∧ UnitFrame m c s w ∧ (∀ r, w.readKey r = s.readKey r) ∧
      w.cmds = (s.setCmd next).cmds ∧
      w.accRow c row = mmaRow fw z (opVals (fw.toNat % 2 ^ 4) h grp (m.prog % h)) arr (s.accRow c row) ∧
      (∀ d r, r < 2048 → ¬ (d = c ∧ r = row) → w.accRow d r = s.accRow d r) ∧
      w.cellAt c = { s.cellAt c with ring := (w.cellAt c).ring }) ∧
  (∀ u bs ids id, (∃ q t, m.op = .ldv q t ids ∧ s.readStream (s.cmdAgent m) t (512 * m.prog)
      (if 512 ≤ agBytes t - 512 * m.prog then 512 else agBytes t - 512 * m.prog) = .ok u bs) ∨
    (∃ q t base ty v idx, m.op = .vgath q t base ty ids ∧
      s.readStream (s.cmdAgent m) t (idxSpan t (tyBytes ty) m.prog).1 (idxSpan t (tyBytes ty) m.prog).2 = .ok v idx ∧
      v.gather (v.cmdAgent m) (tyBytes ty) (gathAddrs base (tyBytes ty) idx) = .ok u bs) →
    ids[m.prog]? = some id → u.cells = s.cells → u.cmds = s.cmds → m.eng = .load →
    ∃ w, exec (.entryFilled m.id) s = .next w ∧ UnitFrame m c u w ∧ w.mem = { u.mem with walks := w.mem.walks } ∧
      w.cmds = (s.setCmd next).cmds ∧ (w.cellAt c) = { u.cellAt c with dq := (w.cellAt c).dq } ∧
      ∀ q : Fin 4, (w.cellAt c).dq[q] =
        ((u.cellAt c).dq[q].map fun e => if e.id = id then { e with data := some (BitVec.ofNat 4096 (natOf bs)) } else e))

/-- R29, R43, R143, R144, R146, R151 to R153, R161, R174, R175, R348, R385, R414, R428, R435: a command whose last unit is done completes:
its gives are made, or its engine task is ending. The last unit of an LDB, of a DRAIN of any type and mode, of an STV and a VSCAT, of a CHAIN
with one input or two, of a CPY and an XPOSE, and of an NMV that starts from zero or from y reads and writes what its rule says. -/
def Obligations.EngineCompletions : Prop := ∀ (s : State) (m : Cmd), Runs s m →
  let c := m.cellOf
  let w := s.cmdAgent m
  (m.total ≤ m.prog →
    (∀ t q n, m.op = .lda t q n → ∃ t, exec (.ldaComplete m.id) s = .next t ∧ Completed m s t) ∧
    (∀ a n q b fw z k arr, m.op = .mma a n q b fw z k arr → ∃ t, exec (.mmaComplete m.id) s = .next t ∧ Completed m s t) ∧
    (∀ q t ids, m.op = .ldv q t ids → ∃ t, exec (.ldvComplete m.id) s = .next t ∧ Completed m s t) ∧
    (∀ q t b ty ids, m.op = .vgath q t b ty ids → ∃ t, exec (.vgathComplete m.id) s = .next t ∧ Completed m s t)) ∧
  (m.prog < m.total →
    let ends := fun (i : Instr) (u : State) (op : CmdOp) => ∃ t, exec i s = .next t ∧ CompletedWith m u op t
    (∀ b t u bs, m.op = .ldb b t → m.prog = 255 → s.readStream w t (72 * 255) 72 = .ok u bs →
      ends (.ldbComplete m.id) (u.setBRow c b 255 (natOf bs)) m.op) ∧
    (∀ first n mode ty sat lh tD tM eps after u x ms, m.op = .drain first n mode ty sat lh tD tM eps after →
      let h := if ty < 13 then 1 else 2 ^ lh
      let row := first + m.prog
      m.prog + h = n → s.drainWaits c after row h = false → (∀ i < h, ∀ j < 256, accKey c (row + i) * 256 + j ∉ s.mem.badAcc) →
      let good := (List.range h).foldl (fun (u : State) i => u.correctCols c (row + i) 0 256) s
      let rows := (List.range h).map fun i => rowCols (s.accRow c (row + i))
      (mode = .norm → good.readStream w tM (16 * m.prog) (16 * h) = .ok x ms) → (mode ≠ .norm → x = good ∧ ms = []) →
      let vals := if mode = .norm then normRows .norm eps ms rows else rows
      x.drainWrite w mode tD tM (drainBytes ty * m.prog) (16 * m.prog)
        (if ty < 13 then drainRow ty sat (vals.getD 0 []) else drainBlocks ty h vals)
        (rows.flatMap fun r => bytesOf 16 (rowMoment r).toNat) = .ok u () →
      ends (.drainComplete m.id) u m.op) ∧
    (∀ t data v u, m.op = .stv t data → m.prog + 1 = data.length → data[m.prog]? = some v →
      s.putStream w t (512 * m.prog) ((bytesOf 512 v.toNat).take (agBytes t - 512 * m.prog)) = .ok u () →
      ends (.stvComplete m.id) u m.op) ∧
    (∀ t base ty data v u x y idx, m.op = .vscat t base ty data → m.prog + 1 = data.length → data[m.prog]? = some v →
      s.readStream w t (idxSpan t (tyBytes ty) m.prog).1 (idxSpan t (tyBytes ty) m.prog).2 = .ok x idx →
      x.probeScatter w (tyBytes ty) (gathAddrs base (tyBytes ty) idx) = .ok y () →
      y.scatter w (tyBytes ty) (gathAddrs base (tyBytes ty) idx) (bytesOf 512 v.toNat) = .ok u () →
      ends (.vscatComplete m.id) u m.op) ∧
    (∀ d k tA tB tD flg u x y a b, m.op = .chain d k tA tB tD flg → m.prog + 1 = m.total →
      let n := tyBytes (chainTin d)
      let o := tyBytes (chainTout d)
      let r := chainElem d (fpCtlOf k) (natOf a) (natOf b)
      s.readStream w tA (n * m.prog) n = .ok x a →
      (chainBen d = true → x.readStream w tB (n * m.prog) n = .ok y b) → (chainBen d = false → y = x ∧ b = []) →
      y.putStream w tD (o * m.prog) (bytesOf o r.1) = .ok u () →
      ends (.chainComplete m.id) u (.chain d k tA tB tD (flg ||| r.2))) ∧
    (∀ tD tS u x bs, m.op = .cpy tD tS → m.prog + bs.length = agBytes tS →
      bs.length ≤ agChunk tD - m.prog % agChunk tD → bs.length ≤ agChunk tS - m.prog % agChunk tS →
      (bs.length = agChunk tD - m.prog % agChunk tD ∨ bs.length = agChunk tS - m.prog % agChunk tS) →
      s.readStream w tS m.prog bs.length = .ok x bs → x.putStream w tD m.prog bs = .ok u () → ends (.cpyComplete m.id) u m.op) ∧
    (∀ tD tS p b rows cols u x bs, m.op = .xpose tD tS p → xposeParam p = some (b, rows, cols) → m.prog + 1 = cols →
      s.readColumn w tS b cols m.prog (List.range rows) = .ok x bs → x.putStream w tD (m.prog * rows * b) bs = .ok u () →
      ends (.xposeComplete m.id) u m.op) ∧
    (∀ d xs u x y row old, m.op = .nmv d (some xs) → (s.ctxAt m.ctx).nmvOutside d = none → m.prog + 1 = nmvRows d →
      s.nmvUnits w d m.prog (List.range (ceilDiv (nmvRowBytes d) 4096)) = .ok x row →
      (nmvAcc d = true → x.readBytes w (nmvSlot d 8) (nmvY d + 4 * m.prog) 4 = .ok y old) → (nmvAcc d = false → y = x ∧ old = []) →
      y.writeAt w (nmvSlot d 8) (nmvY d + 4 * m.prog)
        (bytesOf 4 (nmvRow d row xs (if nmvAcc d = true then some (natOf old) else none))) = .ok u () →
      ends (.nmvComplete m.id) u m.op))

/-! ### Waits that end, and the post sequencer -/

/-- R31, R38, R45 to R47, R142, R202, R208, R228, R229, R339, R403: a waiting sequencer issues again once its condition holds, with the value
that the unit kept; past its bound FWAIT, SWAIT and BWAIT answer TIMEOUT or trap, and BWAIT leaves its object; a PAUSE is over after its
16 mc; an access that stalls past STMO on an inbound window, its sequencer in the ready set, traps; a BARV whose 25 µs without a route are
over answers TIMEOUT. -/
def Obligations.WaitEnds : Prop := ∀ (s : State) (c : Fin 256) (q : Role),
  let x := s.cellAt c
  let y := s.seqAt c q
  let mine := { s with cell := c, role := q }
  let its := fun (i : Instr) (P : State → Prop) => ∃ u, exec i s = .next { u with cell := s.cell, role := s.role } ∧ P u
  let wakes := fun (w : Wait) (v : Option Word) => y.status = .waiting w →
    exec (.sequencerWake c q) s = .next (s.setSeq c q { y with status := .ready, latch := v })
  let waiters := fun (t : State) (a : Word) => t.flagAt x.ctx (a.toNat + 4)
  let tmo := fun (a : Word) => (s.flagAt x.ctx (a.toNat + 8)).toNat
  let late := BitVec.ofInt 64 (-6)
  ((∀ mask, (∀ r, MaskNames q mask r → 1 ≤ x.tokens[tokenQueue r q]) → wakes (.tokens mask) none) ∧
    (∀ need : List (Fin 4 × Nat), (∀ n ∈ need, n.2 ≤ x.dq[n.1].length ∧ ∀ e ∈ x.dq[n.1].take n.2, e.data ≠ none) → wakes (.popQueue need) none) ∧
    (∀ i n, x.dq[i].length + n ≤ 8 → wakes (.pushQueue i n) none) ∧
    (x.fmtq ≠ [] ∨ (x.seqOf .K).status = .ended → wakes .fmtEmpty none) ∧
    (x.fmtq.length < 16 → wakes .fmtFull none) ∧
    (∀ e, s.queueLen (engOf e) (unitOf (engOf e) c) < 16 → wakes (.engine e) none) ∧
    (∀ a cc r t d b n v, wakes (.flag a cc r t d b n (some v)) (some (v.zeroExtend 64))) ∧
    (∀ n t d b e, wakes (.step n t d b e true) (some 0)) ∧
    (∀ a p t d e v, Canonical s → y.status = .waiting (.barrier a p t d e (some v)) → ∃ u, exec (.sequencerWake c q) s = .next u ∧
      u.seqAt c q = { y with status := .ready, latch := some v } ∧ waiters u a = waiters s a - 0x00010000#32) ∧
    (∀ a cc r t d b n, y.status = .waiting (.flag a cc r t d b n none) → exec (.sequencerWake c q) s = .next s)) ∧
  (y.held = 0 →
    (∀ w t d bound e a, ((∃ cc r, w = .flag a cc r t d bound e none) ∨ ∃ n, a = BitVec.zeroExtend 64 n ∧ w = .step n t d bound e false) →
      y.status = .waiting w →
      (e < bound → exec (.waitTimeout c q) s = .next s) ∧
      (bound ≤ e → (t = false → its (.waitTimeout c q) (WroteReg d late mine)) ∧
        (t = true → y.hnd = false → y.tvec ≠ 0 → its (.waitTimeout c q) (TookTrap 0x10 0 0 a y.pc mine)))) ∧
    (∀ a p t d e, Canonical s → y.status = .waiting (.barrier a p t d e none) →
      (tmo a = 0 ∨ e < tmo a * 1024 → exec (.bwaitTimeout c q) s = .next s) ∧
      (tmo a ≠ 0 → tmo a * 1024 ≤ e → (t = true → y.hnd = false ∧ y.tvec ≠ 0) →
        its (.bwaitTimeout c q) fun u => waiters u a = waiters s a - 0x00010000#32 ∧
        (t = false → RegSet mine u d late ∧ WentOn mine u 4) ∧
        (t = true → u.me.cause = 2 ^ 31 + 0x10 ∧ u.me.epc = y.pc ∧ u.me.eval = a ∧ u.me.pc = y.tvec ∧ u.me.g = y.g))) ∧
    (∀ a e, y.status = .ready → y.stall = some (a, e) →
      (e < (s.ctxAt x.ctx).stmo.toNat * 1024 → exec (.inboundStallTimeout c q) s = .next s) ∧
      ((s.ctxAt x.ctx).stmo.toNat * 1024 ≤ e → y.hnd = false → y.tvec ≠ 0 →
        its (.inboundStallTimeout c q) (TookTrap 0x10 0x01 0 a y.pc mine)))) ∧
  (y.status = .waiting (.pause 0) → its (.pauseEnd c q) (Passed 4 mine)) ∧
  (∀ id a n t b d, y.status = .waiting (.home id a n t b d 0) → its (.podBarvTimeout c q) (WroteReg d late mine))

/-- R55, R57, R60, R64, R66, R69 to R73, R84, R377: the post sequencer takes the oldest operation of its queue. FRDEF, FRFREE and LPATCH
answer as their tables say; a post of any kind is judged for its payload, its frames, the quota and the slices in that order, and an accepted
one gets the next stamp, the versions of the frames that it names and its dependences. LARM posts the roots of its record in list order, all
or none, and answers the first one's stamp. A waiting post repeats FULL and QUOTA until WINTMO has passed since its issue, and stands behind
the others when it is tried again. -/
def Obligations.PostSequencing : Prop := ∀ (s : State) (p : PostReq) (c : Fin 256) (q : Role) (d : Reg),
  let x := s.ctxAt p.ctx
  let now := s.clk.cycle.toNat
  let done := fun (u : State) (v : Word) => ∃ t, exec .postSequencerTake s = .next t ∧ PostDone p c q d v (u.dropReads (2 ^ 41 + p.id)) t
  let answers := fun (v : Int) => done s (BitVec.ofInt 64 v)
  let short := fun (u : State) (v : Int) =>
    (p.wait = false ∨ p.bound ≤ now - p.issued → done u (BitVec.ofInt 64 v)) ∧
    (p.wait = true → now - p.issued < p.bound → exec .postSequencerTake s = .next { u.dropReads (2 ^ 41 + p.id) with
      erg := { s.erg with posts := s.erg.posts.map fun y =>
        if y.id = p.id then
          { y with queued := false, last := some (BitVec.ofInt 64 v), lastAt := now, inFlight := s.erg.tasks.map (·.stamp), freedAt := none }
        else y } })
  p.src = .seq c q d → (s.seqAt c q).status = .waiting (.post p.id) →
  (s.erg.posts.find? (·.queued) = some p →
    (∀ id b, p.op = .frdef id b →
      (4095 < id → answers (-3)) ∧
      (id ≤ 4095 → (∃ f ∈ s.erg.frames, f.id = id) → answers (-2)) ∧
      (id ≤ 4095 → (∀ f ∈ s.erg.frames, f.id ≠ id) →
        (descValid x b = false → answers (-3)) ∧
        (descValid x b = true →
          done { s with erg := { s.erg with frames := s.erg.frames ++ [⟨id, p.ctx, frameDescOf b, 0, false⟩] } } 0))) ∧
    (∀ id, p.op = .frfree id →
      ((∀ f ∈ s.erg.frames, ¬ (f.id = id ∧ f.freeing = false ∧ f.ctx = p.ctx)) → answers (-2)) ∧
      (∀ f, s.erg.frames = [f] → f.id = id → f.freeing = false → f.ctx = p.ctx → f.current ≤ 1 →
        let used := ∃ t ∈ s.erg.tasks, ∃ b ∈ t.boxes, b.frame = id
        (used → done { s with erg := { s.erg with frames := [{ f with freeing := true }] } } (BitVec.ofNat 64 f.current)) ∧
        (¬ used → done { s with erg := { s.erg with frames := [] } } (BitVec.ofNat 64 f.current)))) ∧
    (∀ a v, p.op = .lpatch a v →
      let i := a.toNat % 2 ^ 10
      let j := a.toNat / 2 ^ 16 % 2 ^ 6
      let k := a.toNat / 2 ^ 24 % 2 ^ 3
      let s0 := s.checkSched (x.launchKey i) 16
      (a.toNat / 2 ^ 27 ≠ 0 ∨ a.toNat / 2 ^ 22 % 4 ≠ 0 ∨ a.toNat / 2 ^ 10 % 2 ^ 6 ≠ 0 ∨ s0.launchHead p.ctx i = none →
        done s0 (BitVec.ofInt 64 (-3))) ∧
      (∀ n roots, s0.launchHead p.ctx i = some (n, roots) →
        (n ≤ j → done s0 (BitVec.ofInt 64 (-3))) ∧
        (a.toNat = k * 2 ^ 24 + j * 2 ^ 16 + i → j < n →
          done (s0.writePlain (schedKey (roots + 256 * j + 0x20 + 8 * k)) (bytesOf 8 v.toNat)) 0))) ∧
    (∀ r ok boxes k, p.op = .task r →
      let w := natAt r 0 4
      let place := w / 2 ^ 8 % 2 ^ 9
      let image := BitVec.ofNat 512 (natAt r 0x20 64)
      let pay := s.payloadOf p.ctx (2 ^ 41 + p.id) k (w / 2 ^ 20 % 16) image
      let slices := slicesOf boxes place s.erg.nextStamp
      let quota := x.equota < s.entriesOf p.ctx + slices.length
      let full := ∃ n ∈ slices, 256 ≤ (s.erg.tasks.filter fun t => t.slices.contains n).length
      (recordFits r = false → answers (-3)) ∧
      (recordFits r = true → kindOf (w % 16) = some k → s.boxesOf p.ctx r (List.range (w / 2 ^ 20 % 16)) = some (ok, boxes) →
        (pay = .bounds → answers (-3)) ∧
        (∀ y, pay = .pend y → exec .postSequencerTake s = .next y) ∧
        (∀ y tS tD, pay = .tables y tS tD → y.erg = s.erg →
          (ok = false → answers (-2)) ∧
          (ok = true → quota → short s (-4)) ∧
          (ok = true → ¬ quota → full → short s (-1)) ∧
          (ok = true → ¬ quota → ¬ full → s.erg.nextStamp < 2 ^ 63 → ∃ u t, done u (BitVec.ofNat 64 s.erg.nextStamp) ∧
            u = { y with erg := { s.erg with
              frames := s.erg.frames.map (·.follow t.boxes), tasks := s.erg.tasks ++ [t], nextStamp := s.erg.nextStamp + 1
              issuers := u.erg.issuers } } ∧
            t.stamp = s.erg.nextStamp ∧ t.ctx = p.ctx ∧ t.kind = k ∧ t.place = place ∧ t.prio = w / 2 ^ 4 % 4 ∧ t.cls = t.prio ∧
            t.body = BitVec.ofNat 64 (natAt r 8 8) ∧ t.cflag = BitVec.ofNat 64 (natAt r 16 8) ∧
            t.payload = image ∧ t.tabS = tS ∧ t.tabD = tD ∧
            t.boxes.map (fun b => { b with version := 0 }) = boxes.map (fun b => { b with version := 0 }) ∧
            (∀ b ∈ t.boxes, ∀ f, s.frameOf b.frame = some f → Bound s f (t.boxes.filter fun a => a.frame == b.frame) b.version) ∧
            (∀ e ∈ s.erg.tasks, e.stamp ∈ t.preds ↔ ∃ e' ∈ s.erg.tasks, e'.stamp = e.stamp ∧ e'.ctx = p.ctx ∧
              ∃ a ∈ t.boxes, ∃ b ∈ e'.boxes, boxConflict a b = true) ∧
            t.state = (if t.preds = [] then .ready else .posted) ∧ t.cell = none)))) ∧
    (∀ i, p.op = .larm i →
      let s0 := s.checkArm p.ctx i
      (1023 < i → answers (-3)) ∧
      (i ≤ 1023 → s0.launchHead p.ctx i = none ∨ s0.launchClean p.ctx i = false → done s0 (BitVec.ofInt 64 (-3))) ∧
      (∀ n roots, i ≤ 1023 → s0.launchHead p.ctx i = some (n, roots) → s0.launchClean p.ctx i = true →
        let block := s0.postRoots p.ctx (2 ^ 41 + p.id) i (rootOffsets n roots)
        (∀ y, block = .pend y → exec .postSequencerTake s = .next (s0.keepRequests y)) ∧
        (∀ v : Int, block = .refused (BitVec.ofInt 64 v) →
          if v = -1 ∨ v = -4 then short s0 v else v = -2 ∨ v = -3 → done s0 (BitVec.ofInt 64 v)) ∧
        (∀ y l, block = .accepted y l → s.erg.nextStamp + n < 2 ^ 63 → l = (List.range n).map (s.erg.nextStamp + ·) ∧
          y.erg.nextStamp = s.erg.nextStamp + n ∧ y.erg.tasks.map (·.stamp) = s.erg.tasks.map (·.stamp) ++ l ∧
          done y (BitVec.ofNat 64 s.erg.nextStamp))))) ∧
  (s.erg.posts.find? (·.id == p.id) = some p → p.wait = true → ∀ v, p.last = some v →
    (now - p.issued < p.bound → exec (.tpostWaitExpiry p.id) s = .next s) ∧
    (p.bound ≤ now - p.issued → ∃ t, exec (.tpostWaitExpiry p.id) s = .next t ∧ PostDone p c q d v s t)) ∧
  (s.erg.posts.find? (fun y => y.id == p.id && !y.queued) = some p → exec (.postRetry p.id) s = .next { s with
    erg := { s.erg with posts := (s.erg.posts.filter fun y => y.id != p.id) ++ [{ p with queued := true }] } })

/-- R81, R82, R240, R286, R418: a post from a peer is queued in the context that its job maps, and one for no context here is answered
UNREACHABLE; the answer to a TPOSTX is stored at its result address and then adds 1 to its flag, and after 25 µs without one the result is
UNREACHABLE. An answer for which nothing waits is dropped. A packet already seen does nothing (R240; the record of packets seen is log entry
15, a DESIGN CHOICE). -/
def Obligations.PostsAcrossThePod : Prop := ∀ (s : State) (pk : Packet) (id : Nat) (w : Bool) (r : List Byte) (m : Remote) (v : Word),
  let seen := { s with fab := { s.fab with seen := (pk.job * 4096 + pk.src, pk.seqNo) :: s.fab.seen } }
  let agent : Agent := ⟨m.ctx, some m.cell, some m.boxes, seqAgentId m.cell m.role 0, 0, (s.ctxAt m.ctx).step, none, 2 ^ 43 + m.id⟩
  let flag := 0xFFFFFF0000000000 + 4 * m.flag
  let stored := fun (i : Instr) (v : Word) => ∀ u, s.writeAt agent none m.res.toNat (bytesOf 8 v.toNat) = .ok u () → Canonical u →
    ¬ IsBarrierWord u m.ctx flag → ∃ t, exec i s = .next t ∧
      t.fab.remotes = u.fab.remotes.filter (fun y => y.id != m.id) ∧ t.flagAt m.ctx flag = u.flagAt m.ctx flag + 1 ∧
      FlagsKept [flagKey m.ctx flag] u t ∧ MemSame u t ∧ t.erg = u.erg ∧ t.ctxs = u.ctxs
  (pk.body = .post id w r →
    ((pk.job * 4096 + pk.src, pk.seqNo) ∈ s.fab.seen → exec (.remotePostArrival pk) s = .next s) ∧
    ((pk.job * 4096 + pk.src, pk.seqNo) ∉ s.fab.seen →
      (∀ ctx, s.ctxOfJob pk.job = some ctx → exec (.remotePostArrival pk) s = .next { seen with
        clk := { s.clk with nextId := s.clk.nextId + 1 }
        erg := { s.erg with posts := s.erg.posts ++ [⟨s.clk.nextId, .remote pk.src pk.job id, ctx, .task r, w, s.clk.cycle.toNat,
          (s.ctxAt ctx).wdef.toNat, true, none, 0, [], none⟩] } }) ∧
      (s.ctxOfJob pk.job = none → s.liveHops pk.src ≠ [] → ∃ t, exec (.remotePostArrival pk) s = .next t ∧
        Left { pk with cls := .response, src := pk.dst, dst := pk.src, hops := 0, body := .postAnswer id (BitVec.ofInt 64 (-5)) } seen t))) ∧
  (s.fab.remotes.find? (·.id == m.id) = some m →
    stored (.tpostxAnswer m.id v) v ∧
    (m.ans = none → 25000000000 ≤ s.clk.fs - m.since → stored (.tpostxNoAnswer m.id) (BitVec.ofInt 64 (-5))) ∧
    (s.clk.fs - m.since < 25000000000 → exec (.tpostxNoAnswer m.id) s = .next s)) ∧
  ((∀ y ∈ s.fab.remotes, y.id ≠ m.id) → exec (.tpostxAnswer m.id v) s = .next s ∧ exec (.tpostxNoAnswer m.id) s = .next s)

/-! ### The Erg, translation and shootdowns -/

/-- R41, R43, R44, R48, R49, R76, R77: the Erg takes the READY and SUSPENDED tasks by class, then by stamp; it starts a CELL task as RUNNING
on a cell that is as R41 says, an engine task in its engine's queue, and passes over a task that may not start. A READY task rises by a class
after 65,536 mc, a moment that is log entry 37 (DEDUCED); a task in ENDING retires with 1 added to its completion flag and its dependents one
predecessor less; a cell of an aborted task becomes free with its last command. -/
def Obligations.ErgEvents : Prop := ∀ (s : State) (t : Task) (c : Fin 256),
  let now := s.clk.cycle.toNat
  let cleared := fun (y : Cell) => y.task = none ∧ y.stopReq = false ∧ (∀ q, (y.seqOf q).status = .idle) ∧
    (∀ i : Fin 12, y.tokens[i] = 0) ∧ (∀ i : Fin 4, y.dq[i] = []) ∧ y.fmtq = [] ∧ y.ring = []
  (exec .ergRelease s = .next (s.contenders.foldl releaseOne (s, [])).1 ∧
    (∀ e, e ∈ s.contenders ↔ e ∈ s.erg.tasks ∧ (e.state = .ready ∨ e.state = .suspended)) ∧
    s.contenders.Pairwise fun a b => b.cls < a.cls ∨ (a.cls = b.cls ∧ a.stamp ≤ b.stamp)) ∧
  (∀ used, let x := s.ctxAt t.ctx
    (x.switchedOut = true → releaseOne (s, used) t = (s, used)) ∧
    (t.kind = .cell → s.place used t = none → releaseOne (s, used) t = (s, used)) ∧
    (t.kind ≠ .cell → 16 ≤ s.queueLen (kindEng t.kind) (t.primary / 8) → releaseOne (s, used) t = (s, used))) ∧
  (∀ used v, let x := s.ctxAt t.ctx
    x.switchedOut = false → x.tokenOut = false → s.taskOf t.stamp = some t →
    (t.kind = .cell → t.slot = none → s.place used t = some (v, c) → Canonical s → ∃ u, releaseOne (s, used) t = (u, clusterOf c :: used) ∧
      let y := u.cellAt c
      (s.cellAt c).task = none ∧ clusterOf c ∉ used ∧
      u.taskOf t.stamp = some { t with state := .running, cell := some c, claim := none } ∧
      y.task = some t.stamp ∧ y.ctx = t.ctx ∧ y.ticket = BitVec.ofNat 64 t.stamp ∧ y.args = t.args ∧ y.boxes = t.boxes ∧
      (∀ q, y.seqOf q = { Seq.reset with pc := t.body, wintmo := x.wdef, status := .ready }) ∧
      (∀ i : Fin 24, y.v[i] = 0) ∧ (∀ i : Fin 16, y.m[i] = BitVec.ofNat 128 (0x7FC0E000 * 2 ^ 64)) ∧
      (∀ i : Fin 12, y.tokens[i] = t.tokens.toNat / 2 ^ (4 * i.val) % 16) ∧ (∀ i : Fin 4, y.dq[i] = []) ∧ y.fmtq = [] ∧
      y.vl = 0 ∧ y.fpctl = 0 ∧ y.fpflg = 0 ∧ y.accp.toNat / 2 = t.accFirst % 2048 ∧ (∀ i : Fin 8, y.ag[i] = 0) ∧
      y.ring = [] ∧ y.ringHead = 0 ∧ y.ringNext = 0 ∧ (∀ i : Fin 2, y.bbuf[i] = 0) ∧
      (∀ i : Fin 8, y.fbase[i] = match t.boxes[i.val]? with | some b => BitVec.ofNat 64 b.vbase | none => 0) ∧
      (∀ r, t.accFirst ≤ r → r < t.accEnd → u.accRow c r = 0) ∧
      ((∀ i < 256, s.waitersAt t.ctx (cellFlagAddr c i) = 0) → ∀ i, 1 ≤ i → i ≤ 255 → u.flagAt t.ctx (cellFlagAddr c i) = 0) ∧
      (∀ d, d ≠ c → ∀ q, u.seqAt d q = { s.seqAt d q with status := (u.seqAt d q).status }) ∧ MemSame s u) ∧
    (t.kind ≠ .cell → s.queueLen (kindEng t.kind) (t.primary / 8) < 16 → releaseOne (s, used) t = ({ s with
      clk := { s.clk with nextId := s.clk.nextId + 1 }
      cmds := s.cmds ++ [⟨s.clk.nextId, kindEng t.kind, t.primary / 8, .task t.stamp, t.stamp, t.ctx, 0, 0, 0, x.step, t.boxes, t.op,
        .queued, 0, 0⟩]
      erg := { s.erg with tasks := s.erg.tasks.map fun y => if y.stamp = t.stamp then { t with state := .running, claim := none } else y } }, used))) ∧
  (s.taskOf t.stamp = some t →
    (t.state = .ready → t.cls < 3 → 65536 ≤ now - t.readySince → exec (.readyClassRaise t.stamp) s = .next { s with
      erg := { s.erg with tasks := s.erg.tasks.map fun y =>
        if y.stamp = t.stamp then { t with cls := t.cls + 1, readySince := now } else y } }) ∧
    (t.state ≠ .ready ∨ 3 ≤ t.cls ∨ now - t.readySince < 65536 → exec (.readyClassRaise t.stamp) s = .next s) ∧
    (t.state = .ending → t.req = none → (∀ m ∈ s.cmds, m.stamp ≠ t.stamp) → t.cell = some c → (∀ p ∈ s.mem.pend, p.cell ≠ c) →
      ¬ IsBarrierWord s t.ctx t.cflag.toNat → Canonical s → ∃ u, exec (.taskRetire t.stamp) s = .next u ∧
        u.erg.tasks = ((s.erg.tasks.filter fun y => y.stamp != t.stamp).map fun y =>
          let p := y.preds.filter (· != t.stamp)
          if t.stamp ∈ y.preds ∧ p = [] ∧ y.state = .posted then { y with preds := p, state := .ready, readySince := now }
          else { y with preds := p }) ∧
        (t.cflag = 0 → ∀ d a, u.flagAt d a = s.flagAt d a) ∧
        (t.cflag ≠ 0 → u.flagAt t.ctx t.cflag.toNat = s.flagAt t.ctx t.cflag.toNat + 1 ∧ FlagsKept [flagKey t.ctx t.cflag.toNat] s u) ∧
        cleared (u.cellAt c) ∧ MemSame s u) ∧
    (t.state ≠ .ending ∨ (∃ m ∈ s.cmds, m.stamp = t.stamp) → exec (.taskRetire t.stamp) s = .next s)) ∧
  (s.taskOf t.stamp = none → (∀ d, (s.cellAt d).task = some t.stamp ↔ d = c) →
    ((∀ m ∈ s.cmds, m.stamp = t.stamp → m.state ≠ .started) → ∃ u, exec (.abortedCellFree t.stamp) s = .next u ∧
      cleared (u.cellAt c) ∧ (∀ d, d ≠ c → u.cellAt d = s.cellAt d) ∧ MemSame s u ∧ u.erg = s.erg ∧ u.cmds = s.cmds) ∧
    ((∃ m ∈ s.cmds, m.stamp = t.stamp ∧ m.state = .started) → exec (.abortedCellFree t.stamp) s = .next s))

/-- R86, R93, R99, R100, R102, R182, R184: a walk that holds a walker ends, under the registers that it took, in a leaf for its waiters'
caches, which a waiter without a cache takes itself, or in a fault for its waiters, and hands its walker on; a store is performed with those
of its sequencer that come before it in its order; a controller drops its entries, repeats the context's walks, and reports a shootdown once
the stores translated under those entries are performed or W3 has ended there; after 16 µs the missing ones are named and reset. -/
def Obligations.TranslationEvents : Prop := ∀ (s : State) (k : Walk) (c : Fin 256) (r : Nat) (p : PStore) (j : ShootJob) (n : Fin 16),
  let keep := fun (l : List TlbEntry) => l.filter fun e => !(e.ctx == j.ctx && decide (e.va < j.va + j.len) && decide (j.va < e.va + e.size))
  let flushed := ({ s with mem := { s.mem with
    micro := Vector.ofFn fun d => if d.val / 16 = n.val then keep s.mem.micro[d] else s.mem.micro[d]
    cluster := s.mem.cluster.set n (keep s.mem.cluster[n]) } } : State).startWalks (s.mem.walks.map fun x => x.restarted j.ctx)
  let shape := fun (l : List Walk) => l.map fun x => (x.id, x.ctx, x.granule, x.waiters, x.ended)
  let handed := fun (t : State) => ∀ x ∈ (t.mem.walks.filter (·.ended.isNone)).take 64, x.regs ≠ none
  let leaf := fun level e => tlbEntry k.ctx (k.granule * 65536) level e
  (∀ root tkey, s.walking.find? (·.id == k.id) = some k → k.regs = some (root, tkey) →
    (∀ f seen, s.walk k.ctx root tkey (k.granule * 65536) = .error (f, seen) → ∃ t, exec (.pageWalkComplete k.id) s = .next t ∧
      shape t.mem.walks = shape (s.mem.walks.map fun x =>
        if x.id = k.id then { x with ended := some (.fault ⟨f.code, f.detail, f.level, f.ue⟩) } else x) ∧ handed t ∧
      t = { s with mem := { s.mem with walks := t.mem.walks, soft := t.mem.soft, ecc := t.mem.ecc } }) ∧
    (∀ level e seen, s.walk k.ctx root tkey (k.granule * 65536) = .ok (level, e, seen) →
      (k.waiters = [(some c, r)] → ∃ t, exec (.pageWalkComplete k.id) s = .next t ∧
        shape t.mem.walks = shape ((s.mem.walks.filterMap fun x => x.arrived k.id (leaf level e))) ∧ handed t ∧
        leaf level e ∈ t.mem.micro[c] ∧ leaf level e ∈ t.mem.cluster[clusterOf c] ∧
        (∀ d, d ≠ c → t.mem.micro[d] = s.mem.micro[d]) ∧ MemSame s t ∧ t.cells = s.cells) ∧
      (k.waiters = [(none, r)] → ∃ t, exec (.pageWalkComplete k.id) s = .next t ∧
        (∃ x ∈ t.mem.walks, x.id = k.id ∧ x.waiters = [(none, r)] ∧ x.ended = some (.leaf (leaf level e))) ∧ handed t ∧
        t.mem.micro = s.mem.micro ∧ t.mem.cluster = s.mem.cluster ∧ MemSame s t ∧ t.cells = s.cells))) ∧
  (s.walking.find? (·.id == k.id) = none → exec (.pageWalkComplete k.id) s = .next s) ∧
  (s.mem.pend.find? (·.id == p.id) = some p → ∃ t, exec (.accessPerformed p.id) s = .next t ∧
    t = { s with mem := { s.mem with
      bytes := t.mem.bytes, keyTags := t.mem.keyTags, bad := t.mem.bad, soft := t.mem.soft, pend := t.mem.pend } } ∧
    t.mem.pend.Sublist s.mem.pend ∧ p ∉ t.mem.pend ∧
    (∀ q ∈ s.mem.pend, ¬ (q.cell = p.cell ∧ q.role = p.role) → q ∈ t.mem.pend) ∧
    (Canonical s → ∀ a, (∀ q ∈ s.mem.pend, q.cell = p.cell → q.role = p.role → a ∉ q.bytes.map (·.1)) → t.readKey a = s.readKey a) ∧
    (Canonical s → s.mem.pend = [p] → (p.bytes.map (·.1)).Nodup →
      (∀ a ∈ p.bytes, ∀ b ∈ p.bytes, a.1 / 64 = b.1 / 64 → a.2.2 = b.2.2) → ∀ b ∈ p.bytes, t.readKey b.1 = b.2.1 ∧ t.tagOf b.1 = b.2.2)) ∧
  ((∀ q ∈ s.mem.pend, q.id ≠ p.id) → exec (.accessPerformed p.id) s = .next s) ∧
  (s.host.shoot = none → exec (.shootdownReport n) s = .next s ∧ exec .shootdownTimeout s = .next s) ∧
  (s.host.shoot = some j →
    (n ∈ j.reported → exec (.shootdownReport n) s = .next s) ∧
    (n ∉ j.reported →
      let first := n ∉ j.invalidated
      let b := if first then flushed else s
      let i : ShootJob := if first then { j with invalidated := n :: j.invalidated, awaited := s.usersOf n j ++ j.awaited } else j
      let resetOver := (n ∈ j.w3 → s.erg.quiet.getLsbD n.val = false) ∧
        (n ∉ j.w3 → ∀ q ∈ s.mem.pend, ¬ (q.id ∈ i.awaited ∧ clusterOf q.cell = n))
      (¬ resetOver → exec (.shootdownReport n) s = .next { b with host := { s.host with shoot := some i } }) ∧
      (resetOver →
        (j.reported.length + 1 < 16 → exec (.shootdownReport n) s = .next { b with
          host := { s.host with shoot := some { i with reported := n :: j.reported, w3 := j.w3.filter (· != n) } } }) ∧
        (16 ≤ j.reported.length + 1 → ∃ t, exec (.shootdownReport n) s = .next t ∧
          HostAnswered j.queue (if j.timedOut then BitVec.ofInt 64 (-6) else 0) { b with host := { s.host with shoot := none } } t))) ∧
    (∀ q ∈ s.mem.pend, q.ctx = j.ctx → clusterOf q.cell = n → q.translated = true →
      (∃ e ∈ s.mem.micro[q.cell] ++ s.mem.cluster[n], e.holds j.ctx q.va = true ∧ e.va < j.va + j.len ∧ j.va < e.va + e.size) →
      q.id ∈ s.usersOf n j) ∧
    (∀ i ∈ s.usersOf n j, ∃ q ∈ s.mem.pend, q.id = i ∧ q.ctx = j.ctx ∧ clusterOf q.cell = n) ∧
    (j.timedOut = true ∨ s.clk.fs - j.since < 16000000000 → exec .shootdownTimeout s = .next s) ∧
    (j.timedOut = false → 16000000000 ≤ s.clk.fs - j.since → (∀ m : Fin 16, m ≠ n → m ∈ j.reported) → n ∉ j.reported →
      exec .shootdownTimeout s = .next (State.startW3
        { s.sandglass 0x0008 0x200 (2 ^ n.val + j.ctx.val * 2 ^ 16) (BitVec.ofNat 64 j.va) with
          host := { s.host with shoot := some { j with timedOut := true, w3 := [n] } } } n 0)))

/-! ### The host interface -/

/-- R18, R54, R57, R86, R102, R103, R200, R281 to R285: what each command of a ring does when it is consumed. An entry whose number does not
fit completes with BOUNDS and clears EN; a command that no rule admits, and one with a non-zero byte behind its operands, completes with
BOUNDS. A LAUNCH of a bounded queue is accepted with a claim for each root, all of them of class 3, or answered BUSY with no root posted. -/
def Obligations.HostCommands : Prop := ∀ (s : State) (q : Fin 64) (e : List Byte) (c : Fin 64),
  let h := s.queueAt q
  let w := fun i => natAt e (8 + 8 * i) 8
  let took := s.setQueue q { h with consumed := h.consumed + 1, entry := h.consumed + 1 }
  let bounds := BitVec.ofInt 64 (-3)
  let ends := fun (i : Instr) (v : Word) (u : State) => ∃ t, exec i s = .next t ∧ HostAnswered q v u t
  let posts := fun (i : Instr) (op : PostOp) => exec i s = .next { s with
    clk := { s.clk with nextId := s.clk.nextId + 1 }
    host := { s.host with queues := s.host.queues.set q { h with consumed := h.consumed + 1, entry := h.consumed + 1, busy := .post false } }
    erg := { s.erg with posts := s.erg.posts ++ [⟨s.clk.nextId, .host q, h.ctx, op, false, s.clk.cycle.toNat, 0, true, none, 0, [], none⟩] } }
  (s.queueOpen q = false → ∀ i ∈ [Instr.launch q, .framedef q, .framefree q, .ctxcfg q, .keyinst q, .hostNop q], exec i s = .next s) ∧
  (s.queueOpen q = true → h.dueTrig = none → h.consumed ≠ h.doorbell → e = s.nextEntry q →
    (natAt e 0 4 ≠ (h.consumed + 1).toNat → ∃ t v, exec (.hostNop q) s = .next t ∧ HostAnswered q bounds took v ∧
      t = v.setQueue q { v.queueAt q with en := false }) ∧
    (natAt e 0 4 = (h.consumed + 1).toNat →
      natAt e 4 4 = 0 ∨ 14 < natAt e 4 4 ∨ (adminOp (natAt e 4 4) = true ∧ h.admin = false) ∨
        natAt e (8 + 8 * operandWords (natAt e 4 4)) 64 ≠ 0 →
      ∀ i ∈ [Instr.launch q, .framedef q, .framefree q, .ctxcfg q, .keyinst q, .hostNop q], ends i bounds took)) ∧
  (NextIs s q 0x0A e → ends (.hostNop q) 0 took) ∧
  (NextIs s q 0x01 e →
    (1023 < w 0 ∨ w 1 % 1024 ≠ 0 → ends (.launch q) bounds took) ∧
    (w 0 ≤ 1023 → w 1 % 1024 = 0 → posts (.launch q) (.launch (w 0) (w 1)))) ∧
  (∀ p i plist, s.erg.posts.find? (·.queued) = some p → p.src = .host q → p.op = .launch i plist → p.wait = false →
    let s0 := (s.checkPatches plist).checkArm p.ctx i
    let endsPost := fun (u : State) (v : Word) => ∃ t, exec .postSequencerTake s = .next t ∧
      HostAnswered q v { u.dropReads (2 ^ 41 + p.id) with erg := { u.erg with posts := u.erg.posts.filter fun y => y.id != p.id } } t
    (s0.applyPatches p.ctx i plist = none → endsPost s0 bounds) ∧
    (∀ s1, s0.applyPatches p.ctx i plist = some s1 →
      (∀ v, s1.armRecord p.ctx (2 ^ 41 + p.id) i = .refused v → endsPost s1 v) ∧
      (∀ s2 l, s1.armRecord p.ctx (2 ^ 41 + p.id) i = .accepted s2 l →
        (h.bounded = false → endsPost s2 (BitVec.ofNat 64 (l.headD 0))) ∧
        (h.bounded = true →
          let fits := (∀ t ∈ s2.erg.tasks, t.stamp ∈ l → placeInside t h.cmask = true ∧ t.preds = []) ∧
            l.length + s1.claims h.cmask ≤ s1.freeCells h.cmask
          (fits → endsPost { s2 with erg := { s2.erg with tasks := s2.erg.tasks.map fun t =>
            if t.stamp ∈ l then { t with cls := 3, claim := some h.cmask } else t } } (BitVec.ofNat 64 (l.headD 0))) ∧
          (¬ fits → endsPost s1 (BitVec.ofInt 64 (-9))))))) ∧
  (NextIs s q 0x02 e →
    (4095 < w 0 ∨ w 1 % 64 ≠ 0 → ends (.framedef q) bounds took) ∧
    (w 0 ≤ 4095 → w 1 % 64 = 0 → posts (.framedef q) (.frdef (w 0) (s.readHost (w 1) 64)))) ∧
  (NextIs s q 0x03 e →
    (4095 < w 0 → ends (.framefree q) bounds took) ∧
    (w 0 ≤ 4095 → posts (.framefree q) (.frfree (w 0)))) ∧
  (NextIs s q 0x04 e →
    (63 < w 0 → ends (.ctxcfg q) bounds took) ∧
    (w 0 = c.val →
      let d := s.readHost (w 1) 48
      let p := natAt d 32 8
      let fits := imageReserved d = false ∧
        s.partitionFits c (natAt d 8 8) (natAt d 16 8 % 128) (natAt d 24 8 % 64) (p / 2 ^ 8 % 128) (p % 128) = true
      let busy := (∃ t ∈ s.erg.tasks, t.ctx = c) ∨ ((s.ctxAt c).joined = true ∧ (s.ctxAt c).applied ≠ (s.ctxAt c).step)
      (¬ fits → ends (.ctxcfg q) bounds took) ∧
      (fits → busy → ends (.ctxcfg q) (BitVec.ofInt 64 (-9)) took) ∧
      (fits → ¬ busy → Canonical s → ∃ u, ends (.ctxcfg q) 0 u ∧
        u.ctxs = s.ctxs.set c { s.ctxAt c with
          vbase := BitVec.ofNat 64 (natAt d 8 8), vlimit := natAt d 16 8 % 128, vslot := natAt d 24 8 % 64
          spillpri := p / 2 ^ 16 % 4, rename := p / 2 ^ 8 % 128, scratch := p % 128 } ∧
        (∀ a, OnFlagPage a → u.flagAt c a.toNat = 0) ∧ (∀ d a, d ≠ c → OnFlagPage a → u.flagAt d a.toNat = s.flagAt d a.toNat) ∧
        u.host = took.host ∧ u.erg = s.erg ∧ MemSame s u))) ∧
  (NextIs s q 0x06 e →
    let slot := w 0 % 2 ^ 10
    let owner := w 0 / 2 ^ 16 % 2 ^ 7
    let bad := w 0 / 2 ^ 10 % 2 ^ 6 ≠ 0 ∨ w 0 / 2 ^ 23 ≠ 0 ∨ slot = 0 ∨ (64 ≤ owner ∧ owner ≤ 0x7E)
    (bad → ends (.keyinst q) bounds took) ∧
    (¬ bad → ends (.keyinst q) 0 { took with mem := { s.mem with
      keys := smSet (0, 0) slot (natOf (s.readHost (w 1) 64) + 1, if owner = 0x7F then 64 else owner) s.mem.keys } })) ∧
  (s.host.shoot ≠ none → exec (.shootdown q) s = .next s) ∧
  (s.host.shoot = none → NextIs s q 0x05 e →
    (63 < w 0 → ends (.shootdown q) bounds took) ∧
    (w 0 = c.val → exec (.shootdown q) s = .next { s with host := { s.host with
      queues := s.host.queues.set q { h with consumed := h.consumed + 1, entry := h.consumed + 1, busy := .shootdown }
      shoot := some ⟨q, c, w 1, w 2, s.clk.fs, [], [], [], [], false⟩ } }))

/-- R237, R268, R271, R282, R286: CTXOUT, which pre-empts the running tasks of its context and switches it out; CTXIN; PREEMPT; ABORT, which
completes once nothing of the task is left; PODJOIN, PODREMOVE and PODLEAVE with the cases of their tables. The model's choices here: a
token that finds no route is held (log entry 15), what PODREMOVE leaves of the removed rank's reports and of the tree (log entry 37), the
lowest free save slot and the host that gives no descriptor (log entry 41). -/
def Obligations.ContextAndPodCommands : Prop := ∀ (s : State) (q : Fin 64) (e : List Byte) (c : Fin 64) (x : Task) (cc : Fin 256) (k : Nat),
  let h := s.queueAt q
  let w := fun i => natAt e (8 + 8 * i) 8
  let took := s.setQueue q { h with consumed := h.consumed + 1, entry := h.consumed + 1 }
  let ends := fun (i : Instr) (v : Int) (u : State) => ∃ t, exec i s = .next t ∧ HostAnswered q (BitVec.ofInt 64 v) u t
  let y := s.ctxAt c
  let busy := fun (u : State) (b : HostBusy) => u.setQueue q { u.queueAt q with busy := b }
  let held := (∃ r ∈ s.col.runs, r.ctx = c) ∨ ∃ j ∈ y.sealJobs, j.sent = false
  let occupied := ∃ t ∈ s.erg.tasks, t.ctx = c ∧ (t.state = .running ∨ t.state = .ending)
  let out := fun (v u : State) =>
    (y.joined = false → u = { v with ctxs := s.ctxs.set c { y with switchedOut := true } }) ∧
    (y.joined = true → Sent ⟨.request, y.rank, y.home, y.job, 0, 0, 0, .absence y.rank true⟩
      { v with ctxs := s.ctxs.set c { y with switchedOut := true, tokenOut := true } } u)
  let fresh : Ctx := { y with
    isRoot := false, parent := 0, children := [], live := 0, step := 0, applied := 0, absent := false, conflict := false
    partialEnd := false, away := [], wins := [], newDefs := [], sealJobs := [], childSeals := [], released := [], records := []
    conflicts := [], tokenOut := false, job := 0, lead := 0, joined := false }
  let entries := ∃ (d : Fin 2) (i : Fin 16) (v : ArmedEntry), s.col.entries[d][i] = some v ∧ v.ctx = c
  (s.queueOpen q = false →
    (∀ i ∈ [Instr.ctxin q, .preempt q, .podjoin q, .podremove q, .podleave q], exec i s = .next s) ∧
    ((∀ d r, h.busy ≠ .ctxout d r) → exec (.ctxout q) s = .next s) ∧ ((∀ n, h.busy ≠ .abort n) → exec (.abort q) s = .next s)) ∧
  (∀ i op, (i, op) ∈ [(Instr.ctxout q, 0x07), (.ctxin q, 0x08), (.podjoin q, 0x0C), (.podremove q, 0x0D), (.podleave q, 0x0E)] →
    NextIs s q op e → 63 < w 0 → ends i (-3) took) ∧
  (NextIs s q 0x07 e → w 0 = c.val →
    (held → ends (.ctxout q) (-9) took) ∧
    (¬ held → ¬ occupied → ∃ u, ends (.ctxout q) 0 u ∧ out took u) ∧
    (¬ held → s.erg.tasks = [x] → x.ctx = c → x.cell = some cc → x.state = .running → x.kind = .cell → x.req = none →
      (CanSave x k s → ∃ u, exec (.ctxout q) s = .next (busy u (.ctxout c false)) ∧ Asked x cc k none took u) ∧
      ((∀ j, ¬ CanSave x j s) → ends (.ctxout q) (-9) took))) ∧
  (∀ refused, h.busy = .ctxout c refused →
    (refused = true ∨ held → ends (.ctxout q) (-9) s) ∧
    (refused = false → ¬ held → ¬ occupied → ∃ u, ends (.ctxout q) 0 u ∧ out s u)) ∧
  (NextIs s q 0x08 e → w 0 = c.val → ends (.ctxin q) 0 { took with ctxs := s.ctxs.set c { y with switchedOut := false } }) ∧
  (NextIs s q 0x09 e → s.taskOf (w 0) = some x →
    (CanSave x k s → x.cell = some cc → ∃ u, exec (.preempt q) s = .next (busy u (.preempt (w 0))) ∧ Asked x cc k (some q) took u) ∧
    (x.cell = none ∨ (∀ j, ¬ CanSave x j s) → ends (.preempt q) (-9) took)) ∧
  (NextIs s q 0x09 e → s.taskOf (w 0) = none → ends (.preempt q) (-9) took) ∧
  (NextIs s q 0x0B e →
    (s.taskOf (w 0) = none → ends (.abort q) (-3) took) ∧
    (s.taskOf (w 0) = some x → x.ctx ≠ h.ctx → ends (.abort q) (-3) took) ∧
    (s.taskOf (w 0) = some x → x.ctx = h.ctx → ∃ t u, exec (.abort q) s = .next t ∧
      (u.queueAt q).busy = .abort (w 0) ∧ (Gone (w 0) u → HostAnswered q 0 u t) ∧ (¬ Gone (w 0) u → t = u) ∧ u.taskOf (w 0) = none ∧
      (x.state = .posted ∨ x.state = .ready → (∀ z ∈ s.erg.tasks, w 0 ∉ z.preds) → x.req = none → Canonical s →
        ¬ IsBarrierWord s x.ctx x.cflag.toNat →
        u.erg.abEnds = keepLast 4096 (s.erg.abEnds ++ [⟨w 0, x.ctx, false⟩]) ∧
        u.erg.tasks = s.erg.tasks.filter (fun z => z.stamp != w 0) ∧
        (x.cflag ≠ 0 → u.flagAt x.ctx x.cflag.toNat = s.flagAt x.ctx x.cflag.toNat + 0x00010001 ∧
          FlagsKept [flagKey x.ctx x.cflag.toNat] s u)) ∧
      (x.state = .running → (∀ m ∈ u.cmds, m.stamp = w 0 → m.state = .started) ∧
        (x.cell = some cc → (∀ m ∈ s.cmds, m.stamp = w 0 → m.state ≠ .started) →
          (u.cellAt cc).task = none ∧ ∀ r, (u.seqAt cc r).status = .idle)))) ∧
  (∀ n, h.busy = .abort n → (Gone n s → ends (.abort q) 0 s) ∧ (¬ Gone n s → exec (.abort q) s = .next s)) ∧
  (NextIs s q 0x0C e → w 0 = c.val →
    let d := s.readHost (w 1) 576
    let job := natAt d 0 4
    let rank := natAt d 4 4 % 2 ^ 12
    let root := natAt d 8 4 / 2 ^ 15 % 2 = 1
    let parent := natAt d 8 4 % 2 ^ 12
    let n := natAt d 12 4 % 2 ^ 5
    let child := fun i => natAt d (16 + 2 * i) 2
    let live := fun r => (natAt d 0x40 512).testBit r = true
    let reserved := natAt d 4 4 / 2 ^ 18 ≠ 0 ∨ natAt d 4 4 / 2 ^ 12 % 2 ^ 4 ≠ 0 ∨ natAt d 8 4 / 2 ^ 16 ≠ 0 ∨
      natAt d 8 4 / 2 ^ 12 % 2 ^ 3 ≠ 0 ∨ natAt d 12 4 / 2 ^ 5 ≠ 0 ∨ natAt d 0x30 16 ≠ 0 ∨
      ∃ i < 16, child i / 2 ^ 12 ≠ 0 ∨ (n ≤ i ∧ child i ≠ 0)
    let bad := job = 0 ∨ natAt d 4 4 / 2 ^ 16 % 4 = 3 ∨ 16 < n ∨ reserved ∨ ¬ live rank ∨ (∃ i < n, ¬ live (child i % 2 ^ 12)) ∨
      (¬ root ∧ ¬ live parent) ∨ (root ∧ parent ≠ 0) ∨ ¬ (root ↔ live rank ∧ ∀ r < rank, ¬ live r)
    let taken := y.joined = true ∨ (∃ t ∈ s.erg.tasks, t.ctx = c) ∨ entries ∨ ∃ o, (s.ctxAt o).joined = true ∧ (s.ctxAt o).job = job
    (taken → ends (.podjoin q) (-9) took) ∧
    (¬ taken → bad → ends (.podjoin q) (-3) took) ∧
    (¬ taken → ¬ bad →
      let member := { took with ctxs := s.ctxs.set c { fresh with
        joined := true, rank := rank, job := job, lead := natAt d 4 4 / 2 ^ 16 % 4, isRoot := decide root, parent := parent
        children := (List.range n).map fun i => child i % 2 ^ 12, live := BitVec.ofNat 4096 (natAt d 0x40 512) } };
      if Config.hostAnswers (w 1) then ends (.podjoin q) 0 member else ends (.podjoin q) (-3) took)) ∧
  (NextIs s q 0x0D e → w 0 = c.val →
    let d := s.readHost (w 2) 64
    let other := natAt d 0 4 ≠ y.job ∨ natAt d 4 4 % 2 ^ 12 ≠ y.rank ∨ natAt d 4 4 / 2 ^ 16 % 4 ≠ y.lead
    let bad := 4095 < w 1 ∨ y.joined = false ∨ y.live.getLsbD (w 1) = false ∨ w 1 = y.rank ∨ (w 2 ≠ 0 ∧ other)
    (bad → ends (.podremove q) (-3) took) ∧
    (¬ bad → ∃ u, ends (.podremove q) 0 u ∧ u.host = took.host ∧ u.erg.tasks = s.erg.tasks ∧ MemSame s u ∧
      let z := u.ctxAt c
      (∀ r, z.live.getLsbD r = (y.live.getLsbD r && r != w 1)) ∧ z.joined = true ∧ z.rank = y.rank ∧ z.job = y.job ∧
      z.step = y.step ∧ z.applied = y.applied ∧ z.away = y.away.filter (· != w 1) ∧
      (∀ r ∈ z.records, ∀ f ∈ r.dests, f.rank = w 1 → f.done = true) ∧
      (w 2 ≠ 0 → z.parent = natAt d 8 4 % 2 ^ 12 ∧
        z.children = (List.range (natAt d 12 4 % 2 ^ 5)).map fun i => natAt d (16 + 2 * i) 2 % 2 ^ 12) ∧
      (w 2 = 0 → z.parent = y.parent ∧ z.children = y.children) ∧
      ((∀ r < y.rank, y.live.getLsbD r = true → r = w 1) → y.live.getLsbD y.rank = true → z.isRoot = true))) ∧
  (NextIs s q 0x0E e → w 0 = c.val →
    let held := (∃ t ∈ s.erg.tasks, t.ctx = c) ∨ entries ∨ (∃ r ∈ s.col.runs, r.ctx = c) ∨ (∃ j ∈ y.sealJobs, j.sent = false) ∨
      y.applied ≠ y.step
    (y.joined = false → ends (.podleave q) (-3) took) ∧
    (y.joined = true → held → ends (.podleave q) (-9) took) ∧
    (y.joined = true → ¬ held → ends (.podleave q) 0 { took with
      ctxs := s.ctxs.set c fresh
      fab := { s.fab with
        outRecs := s.fab.outRecs.filter fun r => r.ctx != c
        inRecs := s.fab.inRecs.filter fun r => r.ctx != c
        serveWaits := s.fab.serveWaits.filter fun r => r.ctx != c
        reads := s.fab.reads.filter fun r => r.ctx != c
        lines := s.fab.lines.filter fun r => r.ctx != c
        quotaUsed := s.fab.quotaUsed.filter fun k => k.1 != c.val } }))

/-! ### The step unit and its traffic -/

/-- R94, R214, R219, R221, R225, R226, R230, R231, R233, R240, R286: a record enters the inbound staging; a seal is sent once its step is quiet and its records
are staged or lost, which opens its boundary record; a member forwards a seal that is complete, and the root releases its boundary; a
released boundary is applied after the one before it, here with no record and with one; reports fill the boundary record, and 25 µs after
the apply what is missing has failed. That a record written through a leaf with APER 3 lands on APER 2 alone is log entry 39 (DEDUCED).
The packets held for want of a route and the packets already seen (R240) are log entry 15 (DESIGN CHOICE). -/
def Obligations.StepUnit : Prop := ∀ (s : State) (p : Packet) (ctx : Fin 64) (n : BitVec 32) (j : SealJob) (defs : List WinDef) (r : BoundRec)
    (res : DestResult) (o : InRec) (bs : List (Nat × Byte)) (gs : List Seg) (l : List (Nat × Nat × Nat)),
  let x := s.ctxAt ctx
  let key := (p.job * 4096 + p.src, p.seqNo)
  let seen := { s with fab := { s.fab with seen := key :: s.fab.seen } }
  let held := fun (y : Ctx) => j.sent = true ∧ ∀ c ∈ y.children, y.live.getLsbD c = true → ∃ k ∈ y.childSeals, k.rank = c ∧ k.step = j.step
  let releases := fun (y : Ctx) (t : BitVec 32) (ds : List WinDef) => (y.children.filter (y.live.getLsbD ·)).map fun c =>
    (⟨.request, y.rank, c, y.job, 0, 0, 0, .release t ds⟩ : Packet)
  let noted := fun (y : Ctx) (t : BitVec 32) (ds : List WinDef) =>
    { y with released := y.released ++ [t], wins := y.wins ++ ds.filter (·.rank != y.rank) }
  let up := fun (y : Ctx) (v u : State) =>
    let ds := j.defs ++ (y.childSeals.filter (·.step == j.step)).flatMap (·.defs)
    let z := { y with sealJobs := [], childSeals := y.childSeals.filter (·.step != j.step) }
    (y.isRoot = false → Sent ⟨.request, y.rank, y.parent, y.job, 0, 0, 0, .sealUp j.step ds⟩ (v.setCtx ctx z) u) ∧
    (y.isRoot = true → SentAll (releases y j.step ds) (v.setCtx ctx (noted z j.step ds)) u)
  let quiet := (∀ m ∈ s.cmds, m.ctx = ctx → m.step = j.step → m.eng = .coll) ∧
    (∀ k ∈ s.fab.reads, k.ctx = ctx → k.step = j.step → k.ans ≠ none) ∧
    ∀ k ∈ s.fab.outRecs, k.ctx = ctx → k.wr.step = j.step →
      k.arrived = true ∨ x.live.getLsbD k.dst = false ∨ (k.dst ≠ x.rank ∧ s.liveHops k.dst = [])
  let mine := fun (d : Nat) => s.fab.outRecs.filter fun k => k.ctx == ctx && k.wr.step == j.step && k.dst == d
  let bytes := fun (m : List OutRec) => (m.map fun k => (recAddrs k.wr.body).length).sum
  s.ctxOfJob p.job = some ctx →
  (key ∈ s.fab.seen → ∀ w, (p.body = .record w → exec (.caravanRecordArrival p) s = .next s) ∧
    (p.body = .sealUp n defs → exec (.sealArrival p) s = .next s) ∧ (p.body = .release n defs → exec (.boundaryRelease p) s = .next s) ∧
    (p.body = .report n res → exec (.boundaryResultReport p) s = .next s)) ∧
  (key ∉ s.fab.seen →
    (∀ w, p.body = .record w → p.src ≠ x.rank →
      exec (.caravanRecordArrival p) s = .next { seen with fab := { seen.fab with inRecs := s.fab.inRecs ++ [⟨ctx, p.src, w, .none⟩] } }) ∧
    (∀ w, p.body = .record w → p.src = x.rank →
      exec (.caravanRecordArrival p) s = .next { seen with fab := { seen.fab with
        inRecs := s.fab.inRecs ++ [⟨ctx, p.src, w, .none⟩]
        outRecs := s.fab.outRecs.map fun k => if k.wr.order = w.order then { k with sent := true, arrived := true } else k } }) ∧
    (p.body = .sealUp n defs →
      let y := { x with childSeals := x.childSeals ++ [⟨p.src, n, defs⟩] }
      (x.sealJobs = [] ∨ (x.sealJobs = [j] ∧ ¬ held y) → exec (.sealArrival p) s = .next (seen.setCtx ctx y)) ∧
      (x.sealJobs = [j] → held y → ∃ u, exec (.sealArrival p) s = .next u ∧ up y seen u)) ∧
    (p.body = .release n defs → ∃ u, exec (.boundaryRelease p) s = .next u ∧
      SentAll (releases x n defs) (seen.setCtx ctx (noted x n defs)) u) ∧
    (p.body = .report n res → (∀ k ∈ x.sealJobs, k.step = n → k.sent = true) → ComesBefore n x.step →
      x.records = [r] → r.step = n → r.complete = false → (∀ d ∈ r.dests, d.rank ≠ p.src → d.result ≠ none) →
      (∃ d ∈ r.dests, d.rank = p.src ∧ d.result = none) →
      let r1 := { r with complete := true
                         dests := r.dests.map fun d => if d.rank = p.src ∧ d.result = none then { d with result := some res } else d }
      exec (.boundaryResultReport p) s = .next (seen.setCtx ctx { x with
        records := [r1], partialEnd := x.partialEnd || r1.failures != 0 }))) ∧
  (x.sealJobs = [j] → j.sent = false →
    (¬ quiet → exec (.sealSend ctx) s = .next s) ∧
    (quiet → ∃ u y v, exec (.sealSend ctx) s = .next u ∧
      y = { x with sealJobs := [{ j with sent := true }], records := y.records, partialEnd := y.partialEnd } ∧
      v = { s.setCtx ctx y with fab := { s.fab with
        outRecs := s.fab.outRecs.filter fun k => k.ctx != ctx || k.wr.step != j.step
        unacked := s.fab.unacked.filter fun k =>
          !x.isLost (s.fab.outRecs.filter fun r => r.ctx == ctx && r.wr.step == j.step && !r.arrived) k.2 } } ∧
      (∃ b ∈ y.records, b.step = j.step ∧ b.appliedAt = none ∧
        (∀ d, d ∈ b.dests.map (·.rank) ↔ mine d ≠ []) ∧
        ∀ d ∈ b.dests, d.bytes = bytes (mine d.rank) ∧ d.lost = bytes ((mine d.rank).filter fun k => !k.arrived)) ∧
      ((∃ c ∈ x.children, x.live.getLsbD c = true ∧ ∀ k ∈ x.childSeals, ¬ (k.rank = c ∧ k.step = j.step)) → u = v) ∧
      ((∀ c ∈ x.children, x.live.getLsbD c = true → ∃ k ∈ x.childSeals, k.rank = c ∧ k.step = j.step) →
        let ds := j.defs ++ (x.childSeals.filter (·.step == j.step)).flatMap (·.defs)
        let z := { y with sealJobs := [], childSeals := x.childSeals.filter (·.step != j.step) }
        (x.isRoot = false → Sent ⟨.request, x.rank, x.parent, x.job, 0, 0, 0, .sealUp j.step ds⟩ (v.setCtx ctx z) u) ∧
        (x.isRoot = true → SentAll (releases x j.step ds) (v.setCtx ctx (noted z j.step ds)) u)))) ∧
  ((∀ k ∈ x.sealJobs, k.sent = true) → exec (.sealSend ctx) s = .next s) ∧
  (x.joined = false ∨ x.applied ∉ x.released → exec (.boundaryApply ctx) s = .next s) ∧
  (x.joined = true → x.applied ∈ x.released → (∀ w ∈ s.fab.serveWaits, w.ctx ≠ ctx) →
    let wins := x.winsOf x.rank x.applied
    let after := fun (t : State) =>
      let y := t.ctxAt ctx
      y.applied = x.applied + 1 ∧ x.applied ∉ y.released ∧ (∀ k, k ∈ y.released ↔ k ∈ x.released ∧ k ≠ x.applied) ∧
      y.step = x.step ∧ (∀ b ∈ y.records, b.step = x.applied → b.appliedAt = some s.clk.fs) ∧
      t.fab.inRecs = s.fab.inRecs.filter (fun k => !(k.ctx == ctx && k.wr.step == x.applied)) ∧
      (∀ d, d ≠ ctx → t.ctxAt d = s.ctxAt d) ∧
      (∀ c q k tr d b e, (s.cellAt c).task ≠ none → (s.cellAt c).ctx = ctx → (s.seqAt c q).status = .waiting (.step k tr d b e false) →
        ComesBefore k (x.applied + 1) → (t.seqAt c q).status = .waiting (.step k tr d b e true))
    let tells := fun (t : State) (v : DestResult) =>
      let pk : Packet := ⟨.response, x.rank, o.src, x.job, 0, 0, s.clk.nextId, .report x.applied v⟩;
      s.isMine pk = false → s.liveHops o.src ≠ [] → ∃ h ∈ s.liveHops o.src, t.fab.out = (h.val, clsCode .response * 5, { pk with hops := 1 }) :: s.fab.out
    ((∀ k ∈ s.fab.inRecs, ¬ (k.ctx = ctx ∧ k.wr.step = x.applied)) → ∃ t, exec (.boundaryApply ctx) s = .next t ∧ after t ∧
      MemSame s t ∧ t.fab.out = s.fab.out) ∧
    (s.fab.inRecs.filter (fun k => k.ctx == ctx && k.wr.step == x.applied) = [o] → o.err = .none → o.wr.body = .store bs →
      let sends := fun (d : WinDef) => d.lo ≤ o.src ∧ o.src ≤ d.hi ∧ x.live.getLsbD o.src = true
      let fails := fun (c : BitVec 8) => ∃ t, exec (.boundaryApply ctx) s = .next t ∧ after t ∧ MemSame s t ∧ tells t ⟨bs.length, c, 0⟩
      ((∃ b ∈ bs, ∀ d ∈ wins, ¬ (d.base ≤ b.1 ∧ b.1 < d.base + d.size)) → fails 0x04) ∧
      ((∀ b ∈ bs, ∃ d ∈ wins, d.base ≤ b.1 ∧ b.1 < d.base + d.size) →
        ((∃ b ∈ bs, ∃ d ∈ wins, d.base ≤ b.1 ∧ b.1 < d.base + d.size ∧ ¬ sends d) → fails 0x06) ∧
        ((∀ b ∈ bs, ∀ d ∈ wins, d.base ≤ b.1 → b.1 < d.base + d.size → sends d) →
          s.translateAll (s.hereAgent ctx (applyWork ctx)) .write (bs.map fun b => (b.1, 1)) = .ok s gs →
          (placedBytes o.wr.host gs = none → fails 0x02) ∧
          (placedBytes o.wr.host gs = some l → s.badWrite gs = none → l.map (·.1) = bs.map (·.1) → (bs.map (·.1)).Nodup →
          (l.map (·.2.1)).Nodup → (∀ a ∈ l, ∀ b ∈ l, a.2.1 / 64 = b.2.1 / 64 → a.2.2 = b.2.2) → Canonical s →
          ∃ t, exec (.boundaryApply ctx) s = .next t ∧ after t ∧ tells t ⟨0, 0, 0⟩ ∧
            (∀ a ∈ l, ∀ b, (a.1, b) ∈ bs → t.readKey a.2.1 = b ∧ t.tagOf a.2.1 = a.2.2) ∧
            ∀ k, k ∉ l.map (·.2.1) → t.readKey k = s.readKey k))))) ∧
  (x.records = [r] → r.step = n → r.complete = false → ∀ since, r.appliedAt = some since →
    (s.clk.fs - since < 25000000000 → exec (.boundaryRecordTimeout ctx n) s = .next s) ∧
    (25000000000 ≤ s.clk.fs - since → (∀ k ∈ x.sealJobs, k.step = n → k.sent = true) → ComesBefore n x.step →
      let r1 := { r with complete := true
                         dests := r.dests.map fun d => if d.done then d else { d with result := some ⟨d.bytes - d.lost, 0x05, 0⟩ } }
      exec (.boundaryRecordTimeout ctx n) s = .next (s.setCtx ctx { x with
        records := [r1], partialEnd := x.partialEnd || r1.failures != 0 }))) ∧
  (r.appliedAt = none → x.records = [r] → exec (.boundaryRecordTimeout ctx n) s = .next s)

/-! ### Peers, packets and absence -/

/-- R94, R155, R207, R209, R217, R237, R239, R240, R286: a peer's read waits for its boundary and is answered with the bytes or with the fault
that R155 names; an answer reaches its read once, and 25 µs without one is LINK_DOWN; packets are forwarded, dropped after five hops and
resent; links change with their event; arrivals at the home, phases at the copies, and proxy absence tokens. The stop at a page with no such
HBM is log entry 34 (DESIGN CHOICE); the packets seen (R240), the number 36
of a held packet and the choice of a hop are log entry 15. -/
def Obligations.PeersAndFabric : Prop := ∀ (s : State) (p : Packet) (ctx : Fin 64) (id a : Nat) (c : Fin 256) (q : Role) (link : Fin 36) (up : Bool),
  let x := s.ctxAt ctx
  let key := (p.job * 4096 + p.src, p.seqNo)
  let seen := { s with fab := { s.fab with seen := key :: s.fab.seen } }
  let crossed := fun (l : Fin 36) => (l.val, clsCode p.cls * 5 + p.hops, { p with hops := p.hops + 1 })
  let reply := fun (b : Body) => (⟨.response, x.rank, p.src, x.job, 0, 0, 0, b⟩ : Packet)
  let answer := fun (ans : PeerAns) => s.fab.reads.map fun (r : PeerRead) => if r.id = id ∧ r.ans = none then { r with ans := some ans } else r
  let kept := fun (v : State) => { v with fab := { v.fab with
    serveWaits := if ⟨ctx, p⟩ ∈ v.fab.serveWaits then v.fab.serveWaits else v.fab.serveWaits ++ [⟨ctx, p⟩] } }
  let served := fun (v : State) => { v with fab := { v.fab with serveWaits := v.fab.serveWaits.filter fun w => w.packet != p } }
  (∀ va n t host, p.body = .readReq id va n t host →
    (s.ctxOfJob p.job = none → ∃ u, exec (.peerReadRequest p) s = .next u ∧
      Sent { p with cls := .response, src := p.dst, dst := p.src, hops := 0, body := .readResp id (.fault 0x05 0x08) } (served s) u) ∧
    (s.ctxOfJob p.job = some ctx →
      (ComesBefore x.applied t → exec (.peerReadRequest p) s = .next (kept s)) ∧
      (¬ ComesBefore x.applied t →
        let plan := s.translateAll (s.hereAgent ctx (packetWork p)) .read (pieces (n / 65536 + 2) va n)
        let answers := fun (v : State) (b : PeerAns) => ∃ u, exec (.peerReadRequest p) s = .next u ∧
          Sent (reply (.readResp id b)) (served (v.dropReads (packetWork p))) u
        let here := fun (g : Seg) => ∃ k m pol, g.loc = .mem k m pol ∧ (if host then 2 ^ 56 ≤ k else k < 2 ^ 41)
        (∀ gs, plan = .ok s gs →
          ((∃ g ∈ gs, ¬ here g) → answers s (.fault 0x05 0x08)) ∧
          (∀ f, (∀ g ∈ gs, here g) → gs.findSome? s.badRead = some f → f.code = 0x0D → answers (s.logUe? f.ue) (.fault 0x0D 0x03)) ∧
          ((∀ g ∈ gs, here g ∧ s.badRead g = none) → answers (s.correct (segKeys gs)) (.data (gs.flatMap s.segBytes)))) ∧
        (∀ f, plan = .fault f →
          (f.code = 0x04 → answers (s.logUe? f.ue) (.fault 0x04 0x04)) ∧
          (f.code = 0x0D → answers (s.logUe? f.ue) (.fault 0x0D 0x03)) ∧
          (f.code ≠ 0x04 → f.code ≠ 0x0D → answers (s.logUe? f.ue) (.fault 0x05 0x08))) ∧
        (∀ v, plan = .pend v → exec (.peerReadRequest p) s = .next (kept v)) ∧
        (∀ pa, plan = .stop pa → exec (.peerReadRequest p) s = .fault (.noSuchHbm pa))))) ∧
  (∀ ans, exec (.peerReadResponse id ans) s = .next { s with fab := { s.fab with reads := answer ans } }) ∧
  ((∀ r ∈ s.fab.reads, r.id ≠ id) → exec (.remoteReadTimeout id) s = .next s) ∧
  (∀ r, s.fab.reads.find? (·.id == id) = some r →
    (r.ans ≠ none ∨ s.clk.fs - r.since < 25000000000 → exec (.remoteReadTimeout id) s = .next s) ∧
    (r.ans = none → 25000000000 ≤ s.clk.fs - r.since →
      exec (.remoteReadTimeout id) s = .next { s with fab := { s.fab with reads := answer (.fault 0x0C 0) } })) ∧
  ((5 ≤ p.hops → ∃ t, exec (.packetForward p) s = .next t ∧ Logged 0x000A 0x400
      ((match p.cls with | .request => 0 | .response => 1 | .caravan => 2) + p.src * 2 ^ 2 + p.dst * 2 ^ 14) (BitVec.ofNat 64 p.agent) s t) ∧
    (p.hops < 5 → s.liveHops p.dst ≠ [] → ∃ l ∈ s.liveHops p.dst, exec (.packetForward p) s = .next { s with fab := { s.fab with
      out := crossed l :: s.fab.out, unacked := s.fab.unacked ++ [(l.val, p)] } }) ∧
    (p.hops < 5 → s.liveHops p.dst = [] → exec (.packetForward p) s = .next { s with fab := { s.fab with
      unacked := s.fab.unacked ++ [(36, p)] } })) ∧
  (s.fab.unacked = [(link.val, p)] →
    (s.fab.linkUp[link] = true ∨ s.liveHops p.dst = [] → exec (.packetResend p.seqNo) s = .next s) ∧
    (s.fab.linkUp[link] = false → s.liveHops p.dst ≠ [] → ∃ l ∈ s.liveHops p.dst,
      exec (.packetResend p.seqNo) s = .next { s with fab := { s.fab with out := crossed l :: s.fab.out, unacked := [(l.val, p)] } })) ∧
  ((s.fab.linkUp[link] = up → exec (.linkStateChange link up) s = .next s) ∧
    (s.fab.linkUp[link] ≠ up → ∃ t, exec (.linkStateChange link up) s = .next t ∧
      Logged 0x000F 0x400 (link.val + if up then 2 ^ 6 else 0) 0 { s with fab := { s.fab with linkUp := s.fab.linkUp.set link up } } t)) ∧
  (key ∈ s.fab.seen → s.ctxOfJob p.job = some ctx →
    (∀ n t, p.body = .barArrive id a n t → exec (.podBarrierArrival p) s = .next s) ∧
    (∀ ph ah, p.body = .barPhase a ph ah → exec (.podBarrierPhase p) s = .next s) ∧
    (∀ r, p.body = .absence r true → exec (.proxyAbsenceToken p) s = .next s) ∧
    (∀ r, p.body = .absence r false → exec (.absenceTokenWithdrawal p) s = .next s)) ∧
  (key ∉ s.fab.seen → s.ctxOfJob p.job = some ctx → 0xFFFFFF0000000000 ≤ a → a < 0xFFFFFF0000040000 → a % 16 = 0 →
    let w0 := s.flagAt ctx a
    let w1 := s.flagAt ctx (a + 4)
    let expd := w0.toNat % 2 ^ 16
    let arr := w0.toNat / 2 ^ 16
    let phase := w1.toNat % 2 ^ 4
    let pod := expd ≠ 0 ∧ w1.toNat / 2 ^ 6 % 4 = 3 ∧ x.joined = true
    Canonical s → s.isObj ctx a = true →
    (∀ n t, p.body = .barArrive id a n t →
      let ends := fun (u0 u1 : BitVec 32) (ps : List Packet) (v : Word) (ph : Nat) => ∃ u z, exec (.podBarrierArrival p) s = .next z ∧
        u.flagAt ctx a = u0 ∧ u.flagAt ctx (a + 4) = u1 ∧ FlagsKept [flagKey ctx a, flagKey ctx (a + 4)] s u ∧ MemSame s u ∧
        SentAll (ps ++ [reply (.barReply id a v ph)]) u z
      (n < 1 ∨ 255 < n → ends w0 w1 [] (BitVec.ofInt 64 (-3)) phase) ∧
      (pod → 1 ≤ n → n ≤ 255 →
        (arr + n < expd → ends (BitVec.ofNat 32 (expd + (arr + n) * 2 ^ 16)) w1 [] (BitVec.ofNat 64 phase) phase) ∧
        (arr + n = expd → ends (BitVec.ofNat 32 expd) ((w1 &&& 0xFFFFFFF0#32) ||| BitVec.ofNat 32 ((phase + 1) % 16))
          (x.others.map fun r => ⟨.request, x.rank, r, x.job, 0, 0, 0, .barPhase a ((phase + 1) % 16) (w1.getLsbD 5)⟩)
          (BitVec.ofNat 64 phase) ((phase + 1) % 16)) ∧
        (expd < arr + n → t = false → ends w0 (w1 ||| 0x10#32) [] (BitVec.ofInt 64 (-8)) phase) ∧
        (expd < arr + n → t = true → ends w0 w1 [] (BitVec.ofInt 64 (-8)) phase))) ∧
    (∀ ph ah, p.body = .barPhase a ph ah → ∃ u, exec (.podBarrierPhase p) s = .next u ∧
      u.flagAt ctx (a + 4) = ((w1 &&& 0xFFFFFFD0#32) ||| BitVec.ofNat 32 (ph % 16) ||| (if ah then 0x20#32 else 0)) ∧
      FlagsKept [flagKey ctx (a + 4)] s u ∧ MemSame s u) ∧
    (∀ r away i, (i, away) ∈ [(Instr.proxyAbsenceToken p, true), (.absenceTokenWithdrawal p, false)] → p.body = .absence r away →
      let others := x.away.filter (· != r)
      let l := if away then r :: others else others
      ∃ u v, exec i s = .next v ∧ u.ctxs = s.ctxs.set ctx { x with away := l, absent := !l.isEmpty } ∧ MemSame s u ∧
        (w1.toNat / 2 ^ 6 % 4 = 3 → (u.flagAt ctx (a + 4)).getLsbD 5 = !l.isEmpty ∧
          u.flagAt ctx (a + 4) &&& 0xFFFFFFDF#32 = w1 &&& 0xFFFFFFDF#32) ∧
        (x.home ≠ x.rank → v = u) ∧
        (x.home = x.rank → SentAll (x.others.map fun m => ⟨.request, x.rank, m, x.job, 0, 0, 0, .absence r away⟩) u v))) ∧
  (key ∉ s.fab.seen → ∀ v ph b addr n t d left, p.body = .barReply id b v ph → (s.seqAt c q).status = .waiting (.home id addr n t true d left) →
    (∀ c' q' addr' n' t' h d' left', (s.seqAt c' q').status = .waiting (.home id addr' n' t' h d' left') → c' = c ∧ q' = q) →
    let its := fun (P : State → Prop) => ∃ u, exec (.podBarrierPhase p) s = .next { u with cell := s.cell, role := s.role } ∧ P u
    let mine := { seen with cell := c, role := q }
    (t = false ∨ v ≠ BitVec.ofInt 64 (-8) → its (WroteReg d v mine)) ∧
    (t = true → v = BitVec.ofInt 64 (-8) → (s.seqAt c q).hnd = false → (s.seqAt c q).tvec ≠ 0 → (s.seqAt c q).held = 0 →
      its (TookTrap 0x0F 0 0 addr (s.seqAt c q).pc mine)))

/-! ### Collective runs -/

/-- R243 to R248, R253, R254, R256: each step of a run. SEND and RRS send their range to a peer, with data once the credit is here; RECV and RRS
register their range and grant a credit; COPY combines locally; WAIT looks at its flag; SIGNAL and END wait for the sends; LOOP opens its
body; the end adds 1 to DONE and re-arms the entry, or completes the command. -/
def Obligations.CollectiveSteps : Prop := ∀ (s : State) (r : Run) (w : Word) (x : CollRecvRec) (bs : List Byte) (e : Fin 16) (ae : ArmedEntry),
  let d := r.desc
  let size : Int := collSize d
  let sg := fun (n lo : Nat) => (BitVec.ofNat n (w.toNat / 2 ^ lo)).toInt
  let len := 16 * (w.toNat % 2 ^ 17)
  let op := w.toNat / 2 ^ 57 % 2 ^ 3
  let q := (((if w.getLsbD 34 then (collIdx d : Int) else 0) + sg 4 30 * r.i + sg 12 18) % size).toNat
  let off := q * collCstr d * 4096 + if w.getLsbD 17 then r.j * len else 0
  let base := fun (n : Nat) => collBase d n
  let addr := fun (n : Nat) => (base n + off) % 2 ^ 64
  let bsel := w.toNat / 2 ^ 55 % 2 ^ 2
  let o := sg 4 51 * r.i + sg 4 47 * r.j + sg 12 35
  let rank := fun (i : Int) => r.team.getD ((collIdx d + i) % size).toNat 0
  let flag := 0xFFFFFF0000000000 + 4 * (w.toNat / 2 ^ 32 % 2 ^ 16)
  let v : BitVec 32 := BitVec.ofNat 32 (w.toNat % 2 ^ 32) + if w.getLsbD 56 then r.runNo else 0
  let onward := fun (i : Instr) => ∃ u, PastStep r u ∧ exec i s = .next (s.setRun u)
  let reaches := fun (dst : Nat) => dst = (s.ctxAt r.ctx).rank ∨ s.liveHops dst ≠ []
  let sends := fun (i : Instr) (dst va len : Nat) => s.collRead r va len = .ok s bs → reaches dst →
    let n := countOf r.sentTo dst
    let r1 := { r with sends := r.sends ++ [⟨dst, n, va, len, some bs, false, false⟩], sentTo := bumpCount r.sentTo dst, recv := none }
    ((∀ k ∈ s.col.credits, ¬ (k.ctx = r.ctx ∧ k.tag = collTag d ∧ k.src = dst ∧ k.n = n)) →
      ∃ u, PastStep r1 u ∧ exec i s = .next ((settledFor r s).setRun u)) ∧
    (s.col.credits = [⟨r.ctx, collTag d, dst, n, len⟩] → s.col.runs = [r] → r.sends = [] → ∃ u a b, PastStep r1 u ∧ exec i s = .next b ∧
      a = { settledFor r s with col := a.col } ∧ a.col = { s.col with credits := [], runs := [u] } ∧ CollSent r.ctx .request dst (.collData (collTag d) n len 0 bs) a
        { b with col := a.col } ∧ b.col = { a.col with runs := [{ u with sends := [⟨dst, n, va, len, some bs, true, false⟩] }] })
  let registers := fun (i : Instr) (fwd : Option Nat) => s.collDest r (addr bsel) len = .ok s () → reaches (rank o) →
    let n := countOf r.recvFrom (rank o)
    ∃ t, exec i s = .next t ∧ CollSent r.ctx .response (rank o) (.collCredit (collTag d) n len)
      (s.setRun { r with
        recv := some ⟨rank o, n, op, base bsel, addr bsel, len, [], [], fwd⟩, recvFrom := bumpCount r.recvFrom (rank o), stalled := 0 }) t
  let acked := ∀ y ∈ r.sends, y.acked = true
  (s.runOf r.id = none → ∀ i ∈ [Instr.collSend r.id, .collRecv r.id, .collRrs r.id, .collCopy r.id, .collWait r.id, .collSignal r.id,
    .collLoop r.id, .collEnd r.id], exec i s = .next s) ∧
  (StandsAt s r w 1 → sends (.collSend r.id) (rank o) (addr bsel) len ∧
    (∀ f, s.collRead r (addr bsel) len = .fault f → ∃ t, exec (.collSend r.id) s = .next t ∧ RunFailed r 3 f s t) ∧
    (s.collRead r (addr bsel) len = .ok s bs → ¬ reaches (rank o) →
      ∃ t, exec (.collSend r.id) s = .next t ∧ RunFailed r 4 ⟨0x0C, 0x01, 0, 0, none⟩ s t)) ∧
  (StandsAt s r w 2 →
    (r.recv = none → registers (.collRecv r.id) none ∧
      (∀ f, s.collDest r (addr bsel) len = .fault f → ∃ t, exec (.collRecv r.id) s = .next t ∧ RunFailed r 3 f s t)) ∧
    (r.recv = some x →
      (x.got.length < x.len / 4 → exec (.collRecv r.id) s = .next s) ∧
      (x.len / 4 ≤ x.got.length → ∃ u, PastStep { r with recv := none } u ∧ exec (.collRecv r.id) s = .next (s.setRun u)))) ∧
  (StandsAt s r w 3 →
    (r.recv = none → registers (.collRrs r.id) (some (rank (-o)))) ∧
    (r.recv = some x →
      (x.got.length < x.len / 4 → exec (.collRrs r.id) s = .next s) ∧
      (x.len / 4 ≤ x.got.length → sends (.collRrs r.id) (x.forward.getD 0) x.addr x.len))) ∧
  (StandsAt s r w 4 → s.collRead r (addr bsel) len = .ok s bs →
    let dst := addr (w.toNat / 2 ^ 51 % 2 ^ 2)
    s.collDest r dst len = .ok s () →
      (∀ u, s.portWrite r.ctx op dst bs = .ok u () → ∃ z, PastStep r z ∧ exec (.collCopy r.id) s = .next ((settledFor r u).setRun z)) ∧
      (∀ k m pol, s.portSegs r.ctx dst bs.length = .ok s [⟨dst, bs.length, .mem k m pol⟩] → (∀ i < bs.length, s.isBad (k + i) = false) →
        Canonical s → op = 7 → ∃ t, exec (.collCopy r.id) s = .next t ∧ (∀ i < bs.length, t.readUnder (k + i) m = bs.getD i 0) ∧
          ∀ a, (∀ i < bs.length, a ≠ k + i) → t.readKey a = s.readKey a)) ∧
  (StandsAt s r w 5 →
    (r.wait = none →
      (cond32 (condOf op) (s.flagAt r.ctx flag) v = true → onward (.collWait r.id)) ∧
      (cond32 (condOf op) (s.flagAt r.ctx flag) v = false →
        exec (.collWait r.id) s = .next (s.setRun { r with wait := some ⟨flag, condOf op, v, false⟩ }))) ∧
    (∀ y, r.wait = some y → (y.sat = true → onward (.collWait r.id)) ∧ (y.sat = false → exec (.collWait r.id) s = .next s))) ∧
  (StandsAt s r w 6 →
    (¬ acked → exec (.collSignal r.id) s = .next s) ∧
    (acked → Canonical s → ¬ IsBarrierWord s r.ctx flag → op ≤ 1 → ∃ u t, PastStep r u ∧ exec (.collSignal r.id) s = .next t ∧
      t.runOf r.id = some u ∧ t.flagAt r.ctx flag = (if op = 0 then v else s.flagAt r.ctx flag + v) ∧
      FlagsKept [flagKey r.ctx flag] s t ∧ MemSame s t)) ∧
  (StandsAt s r w 7 →
    let count : Int := (if w.getLsbD 58 then size else 0) + sg 13 0
    let last := r.pc + w.toNat / 2 ^ 52 % 2 ^ 6
    let isJ := w.getLsbD 59
    (count ≤ 0 → r.loops = [] → exec (.collLoop r.id) s = .next (s.setRun { r with pc := last + 1 })) ∧
    (0 < count → exec (.collLoop r.id) s = .next (s.setRun { r with
      pc := r.pc + 1, loops := ⟨isJ, r.pc + 1, last, count.toNat⟩ :: r.loops
      i := if isJ then r.i else 0, j := if isJ then 0 else r.j }))) ∧
  (StandsAt s r w 8 →
    (¬ acked → exec (.collEnd r.id) s = .next s) ∧
    (acked → ∃ t u, exec (.collEnd r.id) s = .next t ∧ (∀ y ∈ u.col.runs, y.id ≠ r.id) ∧ MemSame s u ∧
      (collDone d = 0 → ∀ c a, u.flagAt c a = s.flagAt c a) ∧
      (collDone d ≠ 0 → Canonical s → ¬ IsBarrierWord s r.ctx (deviceFlagAddr (collDone d)) →
        u.flagAt r.ctx (deviceFlagAddr (collDone d)) = s.flagAt r.ctx (deviceFlagAddr (collDone d)) + 1 ∧
        FlagsKept [flagKey r.ctx (deviceFlagAddr (collDone d))] s u) ∧
      (∀ id m, r.src = .cmd id → u.cmdOf id = some m → Completed { m with prog := 1 } u t) ∧
      (r.src = .entry e → s.col.entries[r.die][e] = some ae →
        (ae.disarm = true → t = u.setEntry r.die e none) ∧
        (ae.disarm = false → ∃ d', t = u.setEntry r.die e (some { ae with desc := d', run := ae.run + 1 }) ∧
          (∀ b < 3, collBase d' b = (collBase ae.desc b + (collStride ae.desc b * 4096 % 2 ^ 64).toNat) % 2 ^ 64) ∧
          ∀ i, ¬ (128 ≤ i ∧ i < 320) → d'.getLsbD i = ae.desc.getLsbD i))))

/-- R240, R243, R244, R248 to R250, R253, R256: a trigger that has advanced starts the next run of its entry, which reads its team and its
program; arriving data are combined, counted and acknowledged, and make their tile ready; credits let data flow or are kept; unequal lengths,
an abort and the run's own bound fail the run. Packets are taken once. The model's choices here: the order of the two reads, a run that fails
with reason 4 where its acknowledgement has no route, credits that are kept, and packets to the own rank (log entry 33); the record of
packets seen (log entry 15). -/
def Obligations.CollectiveTraffic : Prop := ∀ (s : State) (p : Packet) (c : Fin 64) (r : Run) (x : CollRecvRec) (y : CollSendRec)
    (bs : List Byte) (die : Fin 2) (e : Fin 16) (ae : ArmedEntry) (n len off k m : Nat) (pol : Bool),
  let key := (p.job * 4096 + p.src, p.seqNo)
  let seen := if p.job < 2 ^ 32 then { s with fab := { s.fab with seen := key :: s.fab.seen } } else s
  let tag := collTag r.desc
  let failed := fun (i : Instr) (reason : Nat) (f : AccFault) (u : State) => ∃ t, exec i s = .next t ∧ RunFailed r reason f u t
  let trig := (s.flagAt ae.ctx (0xFFFFFF0000000000 + 4 * collTrig ae.desc) - ae.t0 - ae.run - 1).toNat
  let idle := ∀ z ∈ s.col.runs, ¬ (z.die = die ∧ z.src = .entry e)
  let hears := fun (v : CollSendRec) => if v.dst = p.src ∧ v.n = n ∧ v.sent = true then { v with acked := true } else v
  let acks := fun (z : Run) => if z.ctx = c ∧ collTag z.desc = tag then { z with sends := z.sends.map hears } else z
  (s.col.entries[die][e] = none → exec (.armedRunStart die e) s = .next s) ∧
  (s.col.entries[die][e] = some ae → idle →
    let z := s.ctxAt ae.ctx
    let new : Run := ⟨s.clk.nextId, die, .entry e, ae.ctx, 0, ae.desc, ae.run, z.step, [], [], 0, 0, 0, [], [], none, [], [], none, 0, 0⟩
    let begun := { s with clk := { s.clk with nextId := s.clk.nextId + 1 }, col := { s.col with runs := s.col.runs ++ [new] } }
    (ae.disarm = true ∨ ae.fresh = true ∨ z.absent = true ∨ z.switchedOut = true ∨ 2 ^ 31 ≤ trig → exec (.armedRunStart die e) s = .next s) ∧
    (ae.disarm = false → ae.fresh = false → z.absent = false → z.switchedOut = false → trig < 2 ^ 31 →
      (∀ z ∈ s.col.runs, z.id < s.clk.nextId) →
      begun.collRead new (collTeam ae.desc) (2 * collSize ae.desc) = .ok begun bs →
      let team := (List.range (collSize ae.desc)).map fun i => natAt bs (2 * i) 2
      let named := { new with team := team }
      let read := begun.setRun named
      ∀ prog, read.readProg named 64 0 = .ok read prog →
        (progValid prog = true → z.teamValid ae.desc team = true → exec (.armedRunStart die e) s = .next
          ((settledFor named read).setRun { named with prog := prog })) ∧
        (progValid prog = false ∨ z.teamValid ae.desc team = false → ∃ t, exec (.armedRunStart die e) s = .next t ∧
          RunFailed named 1 ⟨0x01, 0x1E, 0, 0, none⟩ read t) ∧
        ((∀ w ∈ prog.getLast?, w.toNat / 2 ^ 60 ≠ 8) → progValid prog = false))) ∧
  (s.collCtx p = none ∨ (p.job < 2 ^ 32 ∧ key ∈ s.fab.seen) →
    ∀ i ∈ [Instr.collDataArrival p, .collCreditArrival p, .collAckArrival p, .collAbortArrival p], exec i s = .next s) ∧
  (s.collCtx p = some c → ¬ (p.job < 2 ^ 32 ∧ key ∈ s.fab.seen) →
    (p.body = .collData tag n len off bs →
      ((∀ z ∈ s.col.runs, ∀ v, z.recv = some v → ¬ (z.ctx = c ∧ collTag z.desc = tag ∧ v.src = p.src ∧ v.n = n)) →
        exec (.collDataArrival p) s = .next seen) ∧
      (s.col.runs = [r] → r.recv = some x → r.ctx = c → x.src = p.src → x.n = n →
        (len ≠ x.len → failed (.collDataArrival p) 2 ⟨0x01, 0x1F, 0, 0, none⟩ seen) ∧
        (len = x.len → x.len < off + bs.length → exec (.collDataArrival p) s = .next seen) ∧
        (len = x.len → off + bs.length ≤ x.len → seen.portSegs c (x.addr + off) bs.length = .ok seen [⟨x.addr + off, bs.length, .mem k m pol⟩] →
          (∀ i < bs.length, s.isBad (k + i) = false) → Canonical s →
          let got := x.got ++ (wordsOf off bs.length).filter (fun i => !x.got.contains i)
          let routed := p.src = (s.ctxAt c).rank ∨ s.liveHops p.src ≠ []
          (x.len / 4 ≤ got.length → ¬ routed → p.job < 2 ^ 32 → collRdy r.desc = 0 → ∃ u tiles, u.runOf r.id = some { r with recv := some { x with got := got, tiles := tiles } } ∧
            failed (.collDataArrival p) 4 ⟨0x0C, 0x01, 0, 0, none⟩ u) ∧
          (got.length < x.len / 4 ∨ routed → ∃ t, exec (.collDataArrival p) s = .next t ∧
            (∀ a, (∀ i < bs.length, a ≠ k + i) → t.readKey a = s.readKey a) ∧
            (x.op = 7 → ∀ i < bs.length, t.readUnder (k + i) m = bs.getD i 0) ∧
            (∀ f, (x.op, f) ∈ [(0, fun a b => (plainAdd a b : Nat)), (2, fun a b => max32 false a b), (3, fun a b => min32 false a b)] →
              bs.length % 4 = 0 → ∀ j < bs.length / 4, valueAt t (k + 4 * j) 4 m = f (natAt bs (4 * j) 4) (valueAt s (k + 4 * j) 4 m) % 2 ^ 32) ∧
            (collRdy r.desc = 0 → ∃ u tiles, u.runOf r.id = some { r with recv := some { x with got := got, tiles := tiles } } ∧
              (got.length < x.len / 4 → t = u) ∧ (x.len / 4 ≤ got.length → CollSent c .response p.src (.collAck tag n) u t)) ∧
            (collRdy r.desc ≠ 0 → off = 0 → bs.length = x.len → 4 ≤ x.len → x.len % 4 = 0 → x.addr = x.base → x.len ≤ 4096 → x.got = [] →
              x.tiles = [] → ¬ IsBarrierWord s c (deviceFlagAddr (collRdy r.desc)) →
              t.flagAt c (deviceFlagAddr (collRdy r.desc)) = s.flagAt c (deviceFlagAddr (collRdy r.desc)) + 1))))) ∧
    (p.body = .collCredit tag n len →
      ((∀ z ∈ s.col.runs, ∀ v ∈ z.sends, ¬ (z.ctx = c ∧ collTag z.desc = tag ∧ v.dst = p.src ∧ v.n = n ∧ v.sent = false)) →
        exec (.collCreditArrival p) s = .next { seen with col := { s.col with credits := s.col.credits ++ [⟨c, tag, p.src, n, len⟩] } }) ∧
      (s.col.runs = [r] → r.ctx = c → r.sends = [y] → y.dst = p.src → y.n = n → y.sent = false →
        (len = y.len → y.dst = (s.ctxAt c).rank ∨ s.liveHops y.dst ≠ [] → ∃ u, CollSent c .request y.dst
            (.collData tag n len 0 (y.data.getD [])) seen u ∧
          exec (.collCreditArrival p) s = .next (u.setRun { r with sends := [{ y with sent := true }] })) ∧
        (len ≠ y.len → y.dst ≠ (s.ctxAt c).rank → s.liveHops y.dst ≠ [] → ∃ u, CollSent c .request y.dst (.collData tag n y.len 0 []) seen u ∧
          failed (.collCreditArrival p) 2 ⟨0x01, 0x1F, 0, 0, none⟩ u))) ∧
    (p.body = .collAck tag n → exec (.collAckArrival p) s = .next { seen with col := { s.col with runs := s.col.runs.map acks } }) ∧
    (p.body = .collAbort tag →
      ((∀ z ∈ s.col.runs, ¬ (z.ctx = c ∧ collTag z.desc = tag)) → exec (.collAbortArrival p) s = .next seen) ∧
      (s.col.runs = [r] → r.ctx = c → failed (.collAbortArrival p) 5 ⟨0x0C, 0x02, 0, 0, none⟩ seen))) ∧
  (s.runOf r.id = none → exec (.collRunTimeout r.id) s = .next s) ∧
  (s.runOf r.id = some r →
    (collTmo r.desc = 0 ∨ r.elapsed < collTmo r.desc * 1024 → exec (.collRunTimeout r.id) s = .next s) ∧
    (collTmo r.desc ≠ 0 → collTmo r.desc * 1024 ≤ r.elapsed → failed (.collRunTimeout r.id) 6 ⟨0x10, 0x02, 0, 0, none⟩ s))

/-! ### Recovery, integrity and pre-emption -/

/-- R19, R43, R44, R272 to R274, R291: each trigger of the ladder and its level: a task without progress is aborted, or, while it is saved, its
cell is reset; a level past its bound hands its work on; missing heartbeats; function-level reset and power-up. A task that is ENDING has the
watchdog too while a guard holds a command of it (R50). The model's own readings: how W3 and the restart end, and that a watchdog with TWD 0
needs one mc without progress (DEDUCED, log entry 31). -/
def Obligations.LadderEvents : Prop := ∀ (s : State) (x : Task) (c : Fin 256) (j : LadderJob) (n : Fin 16) (r : Option CfgRecord),
  let y := s.cellAt c
  let flash := s.mgmt.fw.nextRecord.or s.mgmt.fw.record
  let bound := max 1 ((s.ctxAt x.ctx).twd.toNat * 1024)
  let watched := x.state = .running ∨ (x.state = .ending ∧ ∃ m ∈ s.cmds, m.stamp = x.stamp ∧ m.state = .guarded)
  (s.taskOf x.stamp = none → exec (.taskWatchdogExpiry x.stamp) s = .next s) ∧
  (s.taskOf x.stamp = some x → x.cell = some c →
    (¬ watched ∨ y.task ≠ some x.stamp ∨ y.progress = true ∨ (s.ctxAt x.ctx).absent = true ∨ y.watchdog < bound →
      exec (.taskWatchdogExpiry x.stamp) s = .next s) ∧
    (watched → y.task = some x.stamp → y.progress = false → (s.ctxAt x.ctx).absent = false → bound ≤ y.watchdog →
      ((∀ q, x.req = some q → q.saving = none) → ∃ t, exec (.taskWatchdogExpiry x.stamp) s = .next t ∧
        LevelBegun 1 c.val 0 x.stamp 100000000000 s t ∧ t.taskOf x.stamp = none ∧
        (∀ m ∈ t.cmds, m.stamp = x.stamp → m.state = .started) ∧
        ((∀ m ∈ s.cmds, m.state ≠ .guarded) → ∃ e ∈ t.mgmt.sand, e.payload = BitVec.ofNat 64 x.stamp ∧
          e.word = BitVec.ofNat 64 (0x0002 + c.val * 2 ^ 16 + (x.ctx.val + 1 * 2 ^ 6 + 0x01 * 2 ^ 9) * 2 ^ 28))) ∧
      (∀ q since, x.req = some q → q.saving = some since → ∃ t, exec (.taskWatchdogExpiry x.stamp) s = .next t ∧ CellWasReset c 3 s t))) ∧
  ((∀ k ∈ s.mgmt.ladder, k.id ≠ j.id) → exec (.ladderLevelOverrun j.id) s = .next s) ∧
  (s.mgmt.ladder = [j] →
    (j.level = 1 ∨ j.level = 2 → j.scope = c.val →
      (y.task ≠ some j.detail → exec (.ladderLevelOverrun j.id) s = .next { s with mgmt := { s.mgmt with ladder := [] } }) ∧
      (y.task = some j.detail →
        (s.clk.fs ≤ j.deadline → exec (.ladderLevelOverrun j.id) s = .next s) ∧
        (j.deadline < s.clk.fs → ∃ t, exec (.ladderLevelOverrun j.id) s = .next t ∧
          (j.level = 1 → CellWasReset c 0 { s with mgmt := { s.mgmt with ladder := [] } } t) ∧
          (j.level = 2 → ClusterQuiesced (clusterOf c) 0 { s with mgmt := { s.mgmt with ladder := [] } } t)))) ∧
    (j.level = 3 → j.scope = n.val →
      ((∀ d : Fin 256, d.val / 16 = n.val → (s.cellAt d).task = none) → ∃ t, exec (.ladderLevelOverrun j.id) s = .next t ∧
        t = { s with mgmt := { s.mgmt with ladder := [] }, erg := { s.erg with quiet := t.erg.quiet } } ∧
        t.erg.quiet.getLsbD n.val = false ∧ ∀ k : Fin 16, k ≠ n → t.erg.quiet.getLsbD k.val = s.erg.quiet.getLsbD k.val) ∧
      ((∃ d : Fin 256, d.val / 16 = n.val ∧ (s.cellAt d).task ≠ none) → j.deadline < s.clk.fs →
        ∃ t, exec (.ladderLevelOverrun j.id) s = .next t ∧ Restarting 0 { s with mgmt := { s.mgmt with ladder := [] } } t)) ∧
    (j.level = 4 → s.mgmt.fw.restarting = true → j.deadline < s.clk.fs →
      ∃ t, exec (.ladderLevelOverrun j.id) s = .next t ∧ DeviceReset flash s t)) ∧
  (let since := s.clk.fs - s.mgmt.fw.cairnBeat[n];
    (since < 1000000000000 ∨ (∃ k ∈ s.mgmt.ladder, k.level = 3 ∧ k.scope = n.val) → exec (.cairnHeartbeatMissing n) s = .next s) ∧
    (1000000000000 ≤ since → (∀ k ∈ s.mgmt.ladder, ¬ (k.level = 3 ∧ k.scope = n.val)) →
      ∃ t, exec (.cairnHeartbeatMissing n) s = .next t ∧ ClusterQuiesced n 1 s t ∧ t.mgmt.fw.links[n].lostS = true)) ∧
  (let since := s.clk.fs - s.mgmt.fw.siroccoBeat;
    (since < 10000000000000 ∨ s.mgmt.fw.restarting = true ∨ s.mgmt.fw.handover ≠ none → exec .siroccoHeartbeatMissing s = .next s) ∧
    (10000000000000 ≤ since → s.mgmt.fw.restarting = false → s.mgmt.fw.handover = none →
      ∃ t, exec .siroccoHeartbeatMissing s = .next t ∧ Restarting 1 s t ∧ ∀ k : Fin 16, t.mgmt.fw.links[k].lostC = true)) ∧
  (∃ t, exec .functionLevelReset s = .next t ∧ DeviceReset flash s t ∧ t.clk = s.clk ∧ t.mgmt.sandCount = s.mgmt.sandCount + 1 ∧
    t.mgmt.sand = keepLast 8192 (s.mgmt.sand ++ [⟨s.mgmt.sandCount, s.clk.fs / 1000000,
      BitVec.ofNat 64 (0x000D + 0x200 * 2 ^ 16 + (5 + 4 * 2 ^ 19) * 2 ^ 28), 0⟩])) ∧
  (∃ t, exec (.powerUp r) s = .next t ∧ DeviceReset (r.or flash) s t ∧ t.clk.cycle = 0 ∧ t.clk.fs = 0 ∧
    t.mgmt.sand = [⟨0, 0, BitVec.ofNat 64 (0x0001 + 0x200 * 2 ^ 16 + t.mgmt.fw.cfgst.toNat * 2 ^ 28), BitVec.zeroExtend 64 t.mgmt.fw.svn⟩])

/-- R17, R106 to R109, R267 to R269, R274, R276: a control-state parity error resets its cell, aborts its task or restarts its firmware; the
scrubber corrects or counts; the clock steps with the power cap; a pre-emption begins, saves, suspends its task, is given up, or is lost.
An entry's error ends a task that has not started CANCELLED. The model's own readings: the save in two events, of which the first clears VALID
and both wait until no command and no store of the task is left (DEDUCED, log entry 27). -/
def Obligations.IntegrityAndPreemption : Prop := ∀ (s : State) (x : Task) (c : Fin 256) (k n : Nat) (m : Cmd) (cl : Fin 16) (r : PreemptReq),
  let y := s.ctxAt x.ctx
  let slot := y.savebase.toNat / 2 ^ 16 % 2 ^ 36 * 2 ^ 16 + k * (0x210000 + y.scratch * 0x10000)
  let size := 0x210000 + y.scratch * 0x10000
  let now := s.clk.fs / 1000000000000
  let allowed := ((List.range 45).map fun i => 800 + 25 * i).filter fun v => decide ((Config.power now v).toNat ≤ s.host.cap)
  let noBarrier := ∀ q a p b d e v, (s.seqAt c q).paused ≠ some (.barrier a p b d e v)
  let lost := fun (i : Instr) => ∃ t, exec i s = .next t ∧ CellWasReset c 3 s t
  let counted := fun (i : Fin 17) => { s with mgmt := { s.mgmt with fw := { s.mgmt.fw with
    corrected := s.mgmt.fw.corrected.set i (s.mgmt.fw.corrected[i] + 1) } } }
  let halted := ∀ q, (s.seqAt c q).status = .stopped ∨ (s.seqAt c q).status = .ended
  (∃ t, exec (.parityError (.cell c)) s = .next t ∧ CellWasReset c 2 s t) ∧
  (∀ st, ∃ t, exec (.parityError (.erg st)) s = .next t ∧ t.taskOf st = none) ∧
  (s.taskOf x.stamp = some x → x.state = .posted ∨ x.state = .ready → (∀ z ∈ s.erg.tasks, x.stamp ∉ z.preds) →
    ∃ t, exec (.parityError (.erg x.stamp)) s = .next t ∧
    t.erg.abEnds = keepLast 4096 (s.erg.abEnds ++ [⟨x.stamp, x.ctx, false⟩])) ∧
  (s.cmdOf n = none → exec (.parityError (.engineQueue n)) s = .next s) ∧
  (s.cmdOf n = some m → ∃ t, exec (.parityError (.engineQueue n)) s = .next t ∧ t.taskOf m.stamp = none) ∧
  (∃ t, exec (.parityError (.fwSingle .sirocco)) s = .next t ∧ Logged 0x0007 0x200 3 0 (counted 0) t) ∧
  (∃ t, exec (.parityError (.fwSingle (.cairn cl))) s = .next t ∧ Logged 0x0007 (0x100 + cl.val) 3 0 (counted cl.succ) t) ∧
  (∃ t, exec (.parityError (.fwDouble .sirocco)) s = .next t ∧ Restarting 2 s t) ∧
  ((∀ j ∈ s.mgmt.ladder, ¬ (j.level = 3 ∧ j.scope = cl.val)) →
    ∃ t, exec (.parityError (.fwDouble (.cairn cl))) s = .next t ∧ ClusterQuiesced cl 2 s t) ∧
  (2 ^ 41 ≤ n * 8 → exec (.patrolScrub n) s = .next s) ∧
  (n * 8 < 2 ^ 41 →
    (s.isBad (n * 8) = false → n ∉ s.mem.soft → exec (.patrolScrub n) s = .next s) ∧
    (s.isBad (n * 8) = false → n ∈ s.mem.soft → ∃ t, exec (.patrolScrub n) s = .next t ∧ n ∉ t.mem.soft ∧ MemSame s t ∧
      (∀ g, g ≠ n → (g ∈ t.mem.soft ↔ g ∈ s.mem.soft)) ∧ t.cells = s.cells ∧ t.erg = s.erg) ∧
    (s.isBad (n * 8) = true → ∀ u, ueOf (n * 8) = some u → ∃ t, exec (.patrolScrub n) s = .next t ∧ MemSame s t ∧ t.cells = s.cells ∧
      t.mem.bad = s.mem.bad ∧ t.erg = s.erg ∧
      (s.mem.ecc[u.mem].toNat / 2 ^ 32 < 2 ^ 32 - 1 → t.mem.ecc[u.mem] = s.mem.ecc[u.mem] + 0x100000000#64))) ∧
  (∃ goal, (goal ∈ allowed ∨ (allowed = [] ∧ goal = 800)) ∧ (∀ v ∈ allowed, v ≤ goal) ∧ exec .powerCapClockStep s = .next { s with host := { s.host with
    window := now
    lastClk := if now = s.host.window then s.host.lastClk else s.host.mclk
    mclk := if s.host.mclk < goal then min goal (s.host.mclk + 25) else max goal (s.host.mclk - 25) } }) ∧
  (s.taskOf x.stamp = none → ∀ i ∈ [Instr.preemptionRequest x.stamp, .preemptionSave x.stamp, .preemptionAbandon x.stamp, .saveLost x.stamp],
    exec i s = .next s) ∧
  (s.taskOf x.stamp = some x → x.cell = some c →
    (CanSave x k s → ∃ t, exec (.preemptionRequest x.stamp) s = .next t ∧ Asked x c k none s t) ∧
    ((∀ j, ¬ CanSave x j s) → exec (.preemptionRequest x.stamp) s = .next s) ∧
    (x.req = none → ∀ i ∈ [Instr.preemptionSave x.stamp, .preemptionAbandon x.stamp, .saveLost x.stamp], exec i s = .next s) ∧
    (x.req = some r → r.slot = k →
      (halted → x.state = .running → (∀ q, (s.seqAt c q).pending = []) → (∀ m ∈ s.cmds, m.stamp ≠ x.stamp) → (∀ p ∈ s.mem.pend, p.cell ≠ c) →
        (2 ^ 39 < slot + size → exec (.preemptionSave x.stamp) s = .fault (.noSuchHbm slot)) ∧
        (slot + size ≤ 2 ^ 39 → Canonical s →
          (r.saving = none → ∃ t, exec (.preemptionSave x.stamp) s = .next t ∧
            (∀ i < 8, t.readUnder (slot + 8 + i) (s.keyMat y.tkey) = 0) ∧
            (∀ a, (∀ i < 8, a ≠ slot + 8 + i) → t.readKey a = s.readKey a) ∧ t.cells = s.cells ∧
            t.erg = { s.erg with tasks := s.erg.tasks.map fun z => if z.stamp = x.stamp then { x with req := some { r with saving := some s.clk.fs } } else z }) ∧
          (∀ since, r.saving = some since → r.queue = none → (s.cellAt c).ctx = x.ctx → ∃ t w, exec (.preemptionSave x.stamp) s = .next t ∧
            t.taskOf x.stamp = some w ∧ w = { x with
              state := .suspended, slot := some k, req := none, pageObjs := w.pageObjs, watchdog := (s.cellAt c).watchdog } ∧
            (t.cellAt c).task = none ∧ (∀ q, (t.seqAt c q).status = .idle) ∧ (∀ d, d ≠ c → t.cellAt d = s.cellAt d) ∧
            (valueAt t slot 8 (s.keyMat y.tkey) = x.stamp % 2 ^ 64) ∧
            (t.readUnder (slot + 8) (s.keyMat y.tkey)).toNat % 2 = 1 ∧
            ∀ q : Role, valueAt t (slot + 0x100 + 0x200 * (roleIx q).val) 8 (s.keyMat y.tkey) = (s.seqAt c q).pc.toNat))) ∧
      (r.saving ≠ none ∨ (s.clk.fs - r.since < 50000000000 ∧ ∀ q, (s.seqAt c q).pending = []) →
        exec (.preemptionAbandon x.stamp) s = .next s) ∧
      (r.saving = none → r.queue = none → 50000000000 ≤ s.clk.fs - r.since → ∃ t, exec (.preemptionAbandon x.stamp) s = .next t ∧
        t.taskOf x.stamp = some { x with req := none } ∧ (t.ctxAt x.ctx).usedSlots = y.usedSlots.filter (· != k) ∧
        (t.cellAt c).stopReq = false ∧
        (∀ q, (s.seqAt c q).status = .ready ∨ (s.seqAt c q).status = .ended → t.seqAt c q = s.seqAt c q) ∧
        (∀ q, (s.seqAt c q).status = .stopped → (s.seqAt c q).paused = none → (t.seqAt c q).status = .ready) ∧
        (noBarrier → (∀ d, d ≠ c → t.cellAt d = s.cellAt d) ∧ MemSame s t ∧ t.mem.flags = s.mem.flags ∧
          (∀ q, (s.seqAt c q).status ≠ .stopped → t.seqAt c q = s.seqAt c q) ∧
          ∀ q w, (s.seqAt c q).status = .stopped → (s.seqAt c q).paused = some w →
            t.seqAt c q = { s.seqAt c q with status := .waiting (s.lookAgain (s.cellAt c).ctx w), paused := none })) ∧
      (∀ since, r.saving = some since →
        (s.clk.fs - since ≤ 200000000000 → exec (.saveLost x.stamp) s = .next s) ∧
        (200000000000 < s.clk.fs - since → lost (.saveLost x.stamp))) ∧
      (r.saving = none → exec (.saveLost x.stamp) s = .next s)))

/-! ### Registers of the host and of firmware -/

/-- R5, R15, R86, R109, R211, R238, R267, R277 to R281, R285, R287: the writes that act and the reads that clear. A doorbell behind CONSUMED
and one of a disabled queue are ignored; a trigger waits for the entries rung before it; QCTL changes only EN while EN is 1; a cap outside
its values sets BADW; an error counter reads to 0; a link word costs a permit, which its reader returns; other registers take the fields
that they have, and an access that BAR0 does not take changes nothing. The model's own choices: EN rising while a command runs resets the
counters all the same, and the command completes (log entry 21); a value outside a field's range leaves the field (log entry 22); a write of
4 bytes at +0x14 changes that half of CBASE alone (DEDUCED, log entry 36). -/
def Obligations.HostRegisters : Prop := ∀ (s : State) (q : Fin 64) (c : Fin 64) (v : Word) (id : Fin 45) (n : Fin 16) (off bytes : Nat) (d : Fin 2048),
  let h := s.queueAt q
  let n0 := v.toNat
  let lo : BitVec 32 := BitVec.ofNat 32 n0
  let queue := fun (i : Instr) (x : HQueue) => exec i s = .next (s.setQueue q x)
  let same := fun (i : Instr) => exec i s = .next s
  let tr : Trig := ⟨n0 / 2 ^ 10 * 2 ^ 10, n0 % 2 ^ 10, h.doorbell⟩
  let set := { h with cmask := BitVec.ofNat 16 (n0 / 2 ^ 16), ctx := Fin.ofNat 64 (n0 / 2 ^ 4), admin := v.getLsbD 2, bounded := v.getLsbD 1 }
  ((h.en = true → (lo - h.consumed).toNat < 2 ^ 31 → queue (.doorbell q v) { h with doorbell := lo }) ∧
    (h.en = false ∨ 2 ^ 31 ≤ (lo - h.consumed).toNat → same (.doorbell q v))) ∧
  ((h.en = false → same (.trigger q v)) ∧
    (h.en = true → h.busy ≠ .none ∨ s.serving = false → queue (.trigger q v) { h with trigs := h.trigs ++ [tr] }) ∧
    (h.en = true → h.busy = .none → s.serving = true → h.trigs = [] →
      (2 ^ 31 ≤ (h.completed - h.doorbell).toNat → queue (.trigger q v) { h with trigs := [tr] }) ∧
      ((h.completed - h.doorbell).toNat < 2 ^ 31 → exec (.trigger q v) s = .next { s with
        clk := { s.clk with nextId := s.clk.nextId + 1 }
        host := { s.host with queues := s.host.queues.set q { h with busy := .post true } }
        erg := { s.erg with posts := s.erg.posts ++
          [⟨s.clk.nextId, .trigger q, h.ctx, .launch tr.index tr.plist, false, s.clk.cycle.toNat, 0, true, none, 0, [], none⟩] } }))) ∧
  ((h.en = true → v.getLsbD 1 ≠ h.bounded → same (.qctl q v)) ∧
    (h.en = true → v.getLsbD 1 = h.bounded → queue (.qctl q v) { h with en := v.getLsbD 0 }) ∧
    (h.en = false → v.getLsbD 0 = false → queue (.qctl q v) set) ∧
    (h.en = false → v.getLsbD 0 = true →
      queue (.qctl q v) { set with en := true, doorbell := 0, consumed := 0, completed := 0, tcount := 0, nrec := 0, trigs := [] })) ∧
  ((v.getLsbD 0 = false → same (.restart v)) ∧ (v.getLsbD 0 = true → ∃ t, exec (.restart v) s = .next t ∧ Restarting 4 s t)) ∧
  (let cap := n0 % 2 ^ 12;
    (cap % 50 = 0 ∧ 1200 ≤ cap ∧ cap ≤ 2400 → exec (.pcap v) s = .next { s with host := { s.host with cap := cap } }) ∧
    (¬ (cap % 50 = 0 ∧ 1200 ≤ cap ∧ cap ≤ 2400) → exec (.pcap v) s = .next { s with host := { s.host with badw := true } })) ∧
  exec (.eccCounterRead id) s = .next { s with
    host := { s.host with readData := s.mem.ecc[id] }, mem := { s.mem with ecc := s.mem.ecc.set id 0 } } ∧
  (let f := s.mgmt.fw
   let link := fun (i : Instr) (k : Fin 16) (x : Link) (r : Word) => exec i s = .next { s with
     host := { s.host with readData := r }, mgmt := { s.mgmt with fw := { f with links := f.links.set k x } } }
   let a := f.links[f.linkSel]
   let b := f.links[n]
   let keep := s.host.readData
   link (.lsend .sirocco v) f.linkSel
     (if a.permitS = 0 then { a with dropS := true } else { a with permitS := a.permitS - 1, toCairn := a.toCairn ++ [v] }) keep ∧
   link (.lsend (.cairn n) v) n
     (if b.permitC = 0 then { b with dropC := true } else { b with permitC := b.permitC - 1, toSirocco := b.toSirocco ++ [v] }) keep ∧
   (a.toSirocco = [] → link (.lrecv .sirocco) f.linkSel a 0) ∧
   (∀ w ws, a.toSirocco = w :: ws → link (.lrecv .sirocco) f.linkSel { a with toSirocco := ws, permitC := a.permitC + 1 } w) ∧
   (b.toCairn = [] → link (.lrecv (.cairn n)) n b 0) ∧
   (∀ w ws, b.toCairn = w :: ws → link (.lrecv (.cairn n)) n { b with toCairn := ws, permitS := b.permitS + 1 } w) ∧
   (let shows := fun (k : FwCore) (r : Nat) (x : Nat) => s.applyOutside (.csrRead k r) = { s with host := { s.host with readData := BitVec.ofNat 64 x } }
    let clears := fun (k : FwCore) (j : Fin 16) (x : Link) =>
      s.applyOutside (.linkStatus k v) = { s with mgmt := { s.mgmt with fw := { f with links := f.links.set j x } } }
    shows .sirocco 0x7C0 0 ∧ shows (.cairn n) 0x7C0 0 ∧ shows .sirocco 0x7C2 a.permitS ∧ shows (.cairn n) 0x7C2 b.permitC ∧
    shows .sirocco 0x7C3 (a.dropS.toNat + (if a.toSirocco = [] then 0 else 2) + 4 * a.lostS.toNat) ∧
    shows (.cairn n) 0x7C3 (b.dropC.toNat + (if b.toCairn = [] then 0 else 2) + 4 * b.lostC.toNat) ∧
    shows .sirocco 0x7C4 f.linkSel.val ∧
    s.applyOutside (.linkSelect n) = { s with mgmt := { s.mgmt with fw := { f with linkSel := n } } } ∧
    clears .sirocco f.linkSel { a with dropS := a.dropS && !v.getLsbD 0, lostS := a.lostS && !v.getLsbD 2 } ∧
    clears (.cairn n) n { b with dropC := b.dropC && !v.getLsbD 0, lostC := b.lostC && !v.getLsbD 2 })) ∧
  (let shows := fun (o : Nat) (x : Nat) => s.applyOutside (.regRead o 8) = { s with host := { s.host with readData := BitVec.ofNat 64 x } }
   let at_ := 0x10000 + 0x100 * q.val
   shows (at_ + 0x18) 0 ∧ shows (at_ + 0x28) 0 ∧ shows (at_ + 0x20) (h.consumed.toNat * 2 ^ 32 + h.completed.toNat) ∧
   shows (at_ + 0x30) h.tcount.toNat ∧ shows (0x100000 + 0x1000 * c.val + 0x28) (s.ctxAt c).tkey) ∧
  ((bytes ≠ 4 ∧ bytes ≠ 8) ∨ off % bytes ≠ 0 ∨ 2 ^ 24 < off + bytes → same (.registerWrite off bytes v)) ∧
  (∀ o ∈ [0x00, 0x08, 0x10, 0x28, 0x38], same (.registerWrite o 8 v)) ∧
  (off % 8 = 0 → (0x14000 ≤ off ∧ off < 0x100000) ∨ (0x140000 ≤ off ∧ off < 0x210000) ∨ (0x214000 ≤ off ∧ off < 2 ^ 24) →
    same (.registerWrite off 8 v)) ∧
  exec (.registerWrite 0x18 8 v) s = exec (.pcap v) s ∧
  (v.getLsbD 0 = true → exec (.registerWrite 0x20 8 v) s = .next { s with host := { s.host with badw := false } }) ∧
  exec (.registerWrite 0x30 8 v) s = exec (.restart v) s ∧
  (let at_ := fun o => Instr.registerWrite (0x10000 + 0x100 * q.val + o) 8 v
   exec (at_ 0x00) s = exec (.qctl q v) s ∧ exec (at_ 0x18) s = exec (.doorbell q v) s ∧ exec (at_ 0x28) s = exec (.trigger q v) s ∧
   (h.en = true → same (at_ 0x08) ∧ same (at_ 0x10)) ∧ same (at_ 0x20) ∧ same (at_ 0x30) ∧
   (h.en = false →
     queue (at_ 0x08) { h with rbase := BitVec.ofNat 64 (n0 / 2 ^ 12 * 2 ^ 12), logn := if 4 ≤ n0 % 16 then n0 % 16 else h.logn } ∧
     queue (at_ 0x10) { h with cbase := BitVec.ofNat 64 (n0 / 2 ^ 12 * 2 ^ 12) } ∧
     queue (.registerWrite (0x10000 + 0x100 * q.val + 0x14) 4 v)
       { h with cbase := BitVec.ofNat 64 (n0 % 2 ^ 32 * 2 ^ 32 + h.cbase.toNat % 2 ^ 32 / 2 ^ 12 * 2 ^ 12) })) ∧
  (let x := s.ctxAt c
   let takes := fun (o : Nat) (y : Ctx) => exec (.registerWrite (0x100000 + 0x1000 * c.val + o) 8 v) s = .next { s with ctxs := s.ctxs.set c y }
   let fld := fun (a b : Nat) => n0 / 2 ^ a % 2 ^ b
   takes 0x000 { x with root := BitVec.ofNat 64 (fld 16 36 * 2 ^ 16 + fld 0 1) } ∧ takes 0x028 { x with tkey := fld 0 10 } ∧
   takes 0x300 { x with wdef := lo } ∧ takes 0x308 { x with equota := min (fld 0 13) 4096 } ∧ takes 0x310 { x with lbase := fld 16 10 } ∧
   (∀ o ∈ [0x008, 0x010, 0x018, 0x020], takes o x) ∧
   (x.joined = true → ∀ o ∈ [0x100, 0x108, 0x110, 0x118, 0x120, 0x128], takes o x) ∧
   (x.joined = false →
     takes 0x100 { x with owner := fld 8 8 } ∧
     (fld 16 14 ≤ 8192 → fld 0 14 ≤ 8192 → takes 0x108 { x with ispill := fld 16 14, ospill := fld 0 14 }) ∧
     takes 0x110 { x with ospbase := BitVec.ofNat 64 (fld 20 32 * 2 ^ 20) } ∧
     takes 0x118 { x with ispbase := BitVec.ofNat 64 (fld 20 32 * 2 ^ 20) } ∧
     takes 0x120 { x with mcbase := BitVec.ofNat 64 (fld 17 35 * 2 ^ 17) } ∧ takes 0x128 { x with stmo := lo }) ∧
   ((∃ t ∈ s.erg.tasks, t.ctx = c) → takes 0x200 x ∧ takes 0x208 x) ∧
   ((∀ t ∈ s.erg.tasks, t.ctx ≠ c) →
     (fld 0 11 ≤ 1024 → takes 0x200 { x with savebase := BitVec.ofNat 64 (fld 16 36 * 2 ^ 16), slots := fld 0 11 }) ∧
     takes 0x208 { x with twd := lo })) ∧
  exec (.registerWrite (0x210000 + 8 * d.val) 8 v) s = .next { s with fab := { s.fab with
    routes := (s.fab.routes.set (2 * d.val) (BitVec.ofNat 32 n0 &&& 0xBFBFBFBF#32)).set (2 * d.val + 1)
      (BitVec.ofNat 32 (n0 / 2 ^ 32) &&& 0xBFBFBFBF#32) } }

/-- R289, R290, R292, R293: an image is staged, verified and activated, and a hot hand-over ends with the new image's heartbeat or falls back
after 10 ms; the answers of SPDM; and the events that a read of the Sandglass names. The image lies in the staging region of scheduler
memory, and what is verified is what lies there. The model's own choices: the codes and places of the answers are those of SPDM 1.2
(PRESUMED, log entry 23); the hand-over ends in one event, once every controller has been replaced and the new image sends heartbeats
(DEDUCED, log entry 37). -/
def Obligations.FirmwareAndAttestation : Prop := ∀ (s : State) (g : Staged) (since i first count : Nat) (req img : List Byte),
  let f := s.mgmt.fw
  let fw := fun (x : Firmware) => { s with mgmt := { s.mgmt with fw := x } }
  let answers := fun (u : State) (o : MctpOut) => { u with mgmt := { u.mgmt with mctp := u.mgmt.mctp ++ [o] } }
  let logs := fun (e : Instr) (kind : Nat) (image : List Byte) (u : State) => ∃ t, exec e s = .next t ∧
    Logged 0x000E 0x200 kind (BitVec.ofNat 64 (Config.imageSvn image)) u t
  let spdm := fun (e : Instr) (code : Nat) (body : List Byte) => exec e s = .next (answers s (.spdm code body))
  let region := 2 ^ 41 + Config.stagingAt.val
  let lies := { g with image := s.readSched region g.image.length }
  let good := Config.verifies lies.image = true ∧ f.svn.toNat ≤ Config.imageSvn lies.image ∧
    Config.imageLength lies.image = lies.image.length ∧ Config.imageTarget lies.image = g.component
  let block := fun (n type : Nat) (x : List Byte) => bytesOf 1 n ++ [1] ++ bytesOf 2 (x.length + 3) ++ bytesOf 1 type ++ bytesOf 2 x.length ++ x
  let digest := fun (n : Nat) => match n with
    | 1 => block 1 0 (Config.measurement 1 Config.bootRom) | 2 => block 2 1 (Config.measurement 2 f.siroccoImage)
    | 3 => block 3 1 (Config.measurement 3 f.cairnImage)
    | 4 => block 4 3 (Config.measurement 4 (if f.cfgst = 1 then (f.record.map fun x => x.raw).getD [] else []))
    | _ => block 5 0x87 (bytesOf 8 f.svn.toNat)
  (1 ≤ i → i ≤ 3 → img.length ≤ 32 * 2 ^ 20 → ∃ m, let t := { fw { f with staged := some ⟨i, img, false⟩ } with mem := m }
    logs (.imageStaged i img) 0 img t ∧ m.flags = s.mem.flags ∧ m.pend = s.mem.pend ∧
    (Canonical s → valueAt t region img.length 0 = natOf img ∧
      ∀ k, k < region ∨ region + img.length ≤ k → t.readKey k = s.readKey k)) ∧
  (i < 1 ∨ 3 < i ∨ 32 * 2 ^ 20 < img.length → exec (.imageStaged i img) s = .next s) ∧
  (f.staged = none → exec .verifyComplete s = .next s ∧ exec .activateFirmware s = .next s) ∧
  (f.staged = some g →
    (good → exec .verifyComplete s = .next (answers (fw { f with staged := some { lies with verified := true } }) (.verifyResult true))) ∧
    (¬ good → ∃ t, exec .verifyComplete s = .next (answers t (.verifyResult false)) ∧
      Logged 0x000E 0x200 1 (BitVec.ofNat 64 (Config.imageSvn lies.image)) (fw { f with staged := none }) t) ∧
    (g.verified = false ∨ s.serving = false → exec .activateFirmware s = .next s) ∧
    (g.verified = true → s.serving = true →
      (g.component = 3 → exec .activateFirmware s =
        .next (answers (fw { f with staged := none, nextRecord := some { Config.recordOf g.image with raw := g.image } }) .activated)) ∧
      (g.component ≠ 3 → ∃ t k, exec .activateFirmware s = .next (answers t .activated) ∧ (∀ q : Fin 64, Committed k[q] (s.queueAt q)) ∧
        Logged 0x000E 0x200 2 (BitVec.ofNat 64 (Config.imageSvn g.image))
          { fw { f with staged := none, handover := some (s.clk.fs, g), replaced := 0 } with host := { s.host with copies := k } } t))) ∧
  (f.handover = none → exec .handoverHeartbeatTimeout s = .next s ∧ exec .handOverComplete s = .next s) ∧
  (f.handover = some (since, g) →
    (s.clk.fs - since < 10000000000000 → exec .handoverHeartbeatTimeout s = .next s) ∧
    (10000000000000 ≤ s.clk.fs - since → ∃ t, exec .handoverHeartbeatTimeout s = .next t ∧ Restarting 1 s t) ∧
    (f.replaced ≠ 16 → exec .handOverComplete s = .next s) ∧
    (f.replaced = 16 → logs .handOverComplete 3 g.image (fw { f with
      siroccoVer := if g.component = 1 then Config.imageVersion g.image else f.siroccoVer
      cairnVer := if g.component = 2 then Config.imageVersion g.image else f.cairnVer
      siroccoImage := if g.component = 1 then g.image else f.siroccoImage
      cairnImage := if g.component = 2 then g.image else f.cairnImage
      handover := none, replaced := 0, siroccoBeat := s.clk.fs, cairnBeat := Vector.replicate 16 s.clk.fs }))) ∧
  spdm (.getVersion req) 0x04 [0x00, 0x01, 0x00, 0x12] ∧
  spdm (.getCapabilities req) 0x61 (Config.spdmBody 0x61 req) ∧
  (let b := Config.spdmBody 0x63 req ++ List.replicate (16 - (Config.spdmBody 0x63 req).length) 0
   spdm (.negotiateAlgorithms req) 0x63 (b.take 8 ++ [4, 0, 0, 0] ++ [4, 0, 0, 0] ++ b.drop 16)) ∧
  spdm (.getDigests req) 0x01 (Config.certDigest 0) ∧
  (let part := ((Config.certChain 0).drop (natAt req 4 2)).take (natAt req 6 2)
   spdm (.getCertificate req) 0x02 (bytesOf 2 part.length ++ bytesOf 2 ((Config.certChain 0).length - natAt req 4 2 - part.length) ++ part)) ∧
  spdm (.challenge req) 0x03 (Config.spdmBody 0x03 req ++ Config.signature (req ++ Config.spdmBody 0x03 req)) ∧
  spdm (.getMeasurements 0) 0x60 [5] ∧
  (1 ≤ i → i ≤ 5 → spdm (.getMeasurements i) 0x60 (digest i)) ∧
  spdm (.getMeasurements 0xFF) 0x60 (digest 1 ++ digest 2 ++ digest 3 ++ digest 4 ++ digest 5) ∧
  (5 < i → i ≠ 0xFF → spdm (.getMeasurements i) 0x7F []) ∧
  (1 ≤ count → count ≤ 32 → exec (.sandglassRead first count) s = .next (answers s (.events (s.mgmt.sand.filter fun e =>
    decide (first ≤ e.number ∧ e.number < first + count))))) ∧
  (count < 1 ∨ 32 < count → exec (.sandglassRead first count) s = .next s)

/-! ### The step, the encodings, reset and the canonical form -/

/-- R295, R296, R312: the turn of a sequencer that is ready fetches one word, or two where the first is long, and runs the instruction that
they encode; words of no instruction trap ILLEGAL with the words in EVAL. Other turns run their event; a sequencer that is not ready does
nothing; an empty agenda lets an mc pass. The words are those of the spec's own encodings. -/
def Obligations.StepRunsDecoded : Prop := ∀ (s : State) (c : Fin 256) (q : Role) (rest : List Turn) (i : Instr) (key mat key' mat' : Nat)
    (pol pol' : Bool) (d : BitVec 8) (o : Outside),
  let m := { s with agenda := rest, cell := c, role := q }
  let pc := m.me.pc.toNat
  let pc' := (pc + 4) % 2 ^ 64
  let u := m.correct ((List.range 4).map (key + ·))
  let v := u.correct ((List.range 4).map (key' + ·))
  let w := valueAt m key 4 mat
  let e := valueAt u key' 4 mat'
  (s.agenda = [] → ∃ t, step s = .next t) ∧
  (s.agenda = .event i :: rest → step s = exec i { s with agenda := rest }) ∧
  (s.agenda = .outside o :: rest → step s = .next ({ s with agenda := rest }.applyOutside o)) ∧
  (s.agenda = .issue c q :: rest ∨ s.agenda = .late c q :: rest →
    ((s.seqAt c q).status ≠ .ready → step s = .next { s with agenda := rest }) ∧
    ((s.seqAt c q).status = .ready →
      m.translateAll m.fetchAgent .fetch (pieces 2 pc 4) = .ok m [⟨pc, 4, .mem key mat pol⟩] → Readable m key 4 →
      (isLong w = false →
        (decode w 0 = .instr i → step s = exec i u) ∧
        (decode w 0 = .illegal d → step s = exec (.illegalEncoding d (BitVec.ofNat 64 w)) u)) ∧
      (isLong w = true → u.translateAll u.fetchAgent .fetch (pieces 2 pc' 4) = .ok u [⟨pc', 4, .mem key' mat' pol'⟩] → Readable u key' 4 →
        (decode w e = .instr i → step s = exec i v) ∧
        (decode w e = .illegal d → step s = exec (.illegalEncoding d (BitVec.ofNat 64 (w + e * 2 ^ 32))) v)))) ∧
  (CanTrap s → ∀ x, Traps (.illegalEncoding d x) s 0x01 d x) ∧
  ∀ x ∈ [(0x04642800, 0, Instr.add 3 4 5), (0x04E8000E, 0, .clz 7 8), (0x0842FFF8, 0, .addi 2 2 0xFFF8), (0x2C821234, 0, .movh 4 0x1234 2),
      (0x40E91C03, 0, .ld 7 9 1 .i32 3), (0x48642651, 0, .amo 3 4 5 2 3 .add), (0x6BE50000, 0, .jr 31 5), (0x74200004, 0, .bne 1 0 4),
      (0x88000886, 0, .fence 0x22), (0x8C853040, 0, .fwait 4 5 6 .eq true), (0x90642841, 0, .barv 3 4 5 true), (0x98490042, 0, .swait 2 9 true),
      (0xAC620605, 0, .vsf ⟨3, 2, 0, 12⟩ .sin), (0xB8A00601, 0, .mupd ⟨5, 0, 0, 12⟩), (0xBC470082, 0, .agld 2 7 2),
      (0xC1000000, 0x08004000, .lda 2 ⟨0, 2, 0, 1⟩), (0xF0C00000, 0x50004000, .chain 6 ⟨2, 4, 0, 1⟩)],
    decode x.1 x.2.1 = .instr x.2.2

/-- R295 to R298, R303 to R311: decoding and encoding agree. Every well-formed instruction has words, of 32 bits each and the second 0 for a
short form, and they decode to it with every operand as it was; and words that decode to an instruction are that instruction's only ones. -/
def Obligations.DecodeEncode : Prop :=
  (∀ i : Instr, i.wf = true → ∃ w e, encode i = some (w, e) ∧ w < 2 ^ 32 ∧ e < 2 ^ 32 ∧ (isLong w = false → e = 0) ∧ decode w e = .instr i) ∧
  ∀ (w e : Nat) (i : Instr), w < 2 ^ 32 → e < 2 ^ 32 → (isLong w = false → e = 0) → decode w e = .instr i →
    i.wf = true ∧ encode i = some (w, e)

/-- R19, R86, R109, R177, R211, R212, R258, R267, R278 to R280, R301: what the machine holds after power-up with no configuration record: no
task, no context configured or joined, every trap register 0, the register blocks at their reset columns, the POWERUP event in the Sandglass, and maps in canonical form. -/
def Obligations.ResetValues : Prop :=
  let s := State.reset
  Canonical s ∧ s.cmds = [] ∧ s.erg.tasks = [] ∧ s.erg.frames = [] ∧ s.erg.posts = [] ∧ s.clk.cycle = 0 ∧ s.clk.fs = 0 ∧
  (∀ c, (s.cellAt c).task = none ∧ (s.cellAt c).fmtq = [] ∧ ∀ q, let y := s.seqAt c q
    y.status = .idle ∧ y.cause = 0 ∧ y.epc = 0 ∧ y.eval = 0 ∧ y.eprog = 0 ∧ y.tvec = 0 ∧ y.esave = 0 ∧ y.loops = [] ∧ y.wintmo = 0x00100000) ∧
  (∀ c (i : Fin 16), (s.cellAt c).m[i] = BitVec.ofNat 128 (0x7FC0E000 * 2 ^ 64)) ∧
  (∀ c, let x := s.ctxAt c
    x.root = 0 ∧ x.vbase = 0 ∧ x.vlimit = 0 ∧ x.vslot = 0 ∧ x.spillpri = 0 ∧ x.rename = 0 ∧ x.scratch = 0 ∧ x.tkey = 0 ∧
    x.owner = 0 ∧ x.ispill = 0 ∧ x.ospill = 0 ∧ x.ospbase = 0 ∧ x.ispbase = 0 ∧ x.mcbase = 0 ∧ x.stmo = 0x4000 ∧
    x.savebase = 0 ∧ x.slots = 0 ∧ x.twd = 0x400 ∧ x.wdef = 0x00100000 ∧ x.equota = 4096 ∧ x.lbase = 0 ∧ x.joined = false ∧
    x.step = 0 ∧ x.applied = 0 ∧ x.absent = false ∧ x.conflict = false ∧ x.partialEnd = false ∧ x.live = 0) ∧
  (∀ q, let h := s.queueAt q
    h.en = false ∧ h.bounded = false ∧ h.admin = false ∧ h.ctx = 0 ∧ h.cmask = 0 ∧ h.rbase = 0 ∧ h.logn = 4 ∧ h.cbase = 0 ∧
    h.consumed = 0 ∧ h.completed = 0 ∧ h.tcount = 0) ∧
  s.host.cap = 2400 ∧ s.host.mclk = 1900 ∧ s.host.badw = false ∧ s.mgmt.fw.cfgst = 0 ∧ (∀ i : Fin 45, s.mem.ecc[i] = 0) ∧
  s.mgmt.sand = [⟨0, 0, 0x02000001, 0⟩] ∧ s.mgmt.sandCount = 1

/-- Every step keeps the canonical form of the machine's sparse maps: memory, key tags, flags, accumulators and keys rise in their keys and
list no default, so that equal contents are equal data. -/
def Obligations.StepKeepsCanonical : Prop := ∀ s t : State, Canonical s → step s = .next t → Canonical t
end

