-- ==== Sys2Proof/Laws/State.lean ====
section
/-! SUPPORT. One lemma for each field of the state under each of its updates, and reading back what an update wrote. -/

namespace Sys2Proof.Machine

/-! ### State.setCell -/

@[simp] theorem State.setCell_cell (s : State) (c : Fin 256) (x : Cell) : (s.setCell c x).cell = s.cell := rfl
@[simp] theorem State.setCell_role (s : State) (c : Fin 256) (x : Cell) : (s.setCell c x).role = s.role := rfl
@[simp] theorem State.setCell_agenda (s : State) (c : Fin 256) (x : Cell) : (s.setCell c x).agenda = s.agenda := rfl
@[simp] theorem State.setCell_arbiter (s : State) (c : Fin 256) (x : Cell) : (s.setCell c x).arbiter = s.arbiter := rfl
@[simp] theorem State.setCell_clk (s : State) (c : Fin 256) (x : Cell) : (s.setCell c x).clk = s.clk := rfl
@[simp] theorem State.setCell_mem (s : State) (c : Fin 256) (x : Cell) : (s.setCell c x).mem = s.mem := rfl
@[simp] theorem State.setCell_cells (s : State) (c : Fin 256) (x : Cell) : (s.setCell c x).cells = s.cells.set c x := rfl
@[simp] theorem State.setCell_cmds (s : State) (c : Fin 256) (x : Cell) : (s.setCell c x).cmds = s.cmds := rfl
@[simp] theorem State.setCell_erg (s : State) (c : Fin 256) (x : Cell) : (s.setCell c x).erg = s.erg := rfl
@[simp] theorem State.setCell_ctxs (s : State) (c : Fin 256) (x : Cell) : (s.setCell c x).ctxs = s.ctxs := rfl
@[simp] theorem State.setCell_fab (s : State) (c : Fin 256) (x : Cell) : (s.setCell c x).fab = s.fab := rfl
@[simp] theorem State.setCell_col (s : State) (c : Fin 256) (x : Cell) : (s.setCell c x).col = s.col := rfl
@[simp] theorem State.setCell_host (s : State) (c : Fin 256) (x : Cell) : (s.setCell c x).host = s.host := rfl
@[simp] theorem State.setCell_mgmt (s : State) (c : Fin 256) (x : Cell) : (s.setCell c x).mgmt = s.mgmt := rfl

/-! ### State.setMyCell -/

@[simp] theorem State.setMyCell_cell (s : State) (x : Cell) : (s.setMyCell x).cell = s.cell := rfl
@[simp] theorem State.setMyCell_role (s : State) (x : Cell) : (s.setMyCell x).role = s.role := rfl
@[simp] theorem State.setMyCell_agenda (s : State) (x : Cell) : (s.setMyCell x).agenda = s.agenda := rfl
@[simp] theorem State.setMyCell_arbiter (s : State) (x : Cell) : (s.setMyCell x).arbiter = s.arbiter := rfl
@[simp] theorem State.setMyCell_clk (s : State) (x : Cell) : (s.setMyCell x).clk = s.clk := rfl
@[simp] theorem State.setMyCell_mem (s : State) (x : Cell) : (s.setMyCell x).mem = s.mem := rfl
@[simp] theorem State.setMyCell_cells (s : State) (x : Cell) : (s.setMyCell x).cells = s.cells.set s.cell x := rfl
@[simp] theorem State.setMyCell_cmds (s : State) (x : Cell) : (s.setMyCell x).cmds = s.cmds := rfl
@[simp] theorem State.setMyCell_erg (s : State) (x : Cell) : (s.setMyCell x).erg = s.erg := rfl
@[simp] theorem State.setMyCell_ctxs (s : State) (x : Cell) : (s.setMyCell x).ctxs = s.ctxs := rfl
@[simp] theorem State.setMyCell_fab (s : State) (x : Cell) : (s.setMyCell x).fab = s.fab := rfl
@[simp] theorem State.setMyCell_col (s : State) (x : Cell) : (s.setMyCell x).col = s.col := rfl
@[simp] theorem State.setMyCell_host (s : State) (x : Cell) : (s.setMyCell x).host = s.host := rfl
@[simp] theorem State.setMyCell_mgmt (s : State) (x : Cell) : (s.setMyCell x).mgmt = s.mgmt := rfl

/-! ### State.setSeq -/

@[simp] theorem State.setSeq_cell (s : State) (c : Fin 256) (q : Role) (y : Seq) : (s.setSeq c q y).cell = s.cell := rfl
@[simp] theorem State.setSeq_role (s : State) (c : Fin 256) (q : Role) (y : Seq) : (s.setSeq c q y).role = s.role := rfl
@[simp] theorem State.setSeq_agenda (s : State) (c : Fin 256) (q : Role) (y : Seq) : (s.setSeq c q y).agenda = s.agenda := rfl
@[simp] theorem State.setSeq_arbiter (s : State) (c : Fin 256) (q : Role) (y : Seq) : (s.setSeq c q y).arbiter = s.arbiter := rfl
@[simp] theorem State.setSeq_clk (s : State) (c : Fin 256) (q : Role) (y : Seq) : (s.setSeq c q y).clk = s.clk := rfl
@[simp] theorem State.setSeq_mem (s : State) (c : Fin 256) (q : Role) (y : Seq) : (s.setSeq c q y).mem = s.mem := rfl
@[simp] theorem State.setSeq_cells (s : State) (c : Fin 256) (q : Role) (y : Seq) : (s.setSeq c q y).cells = s.cells.set c ((s.cellAt c).setSeq q y) := rfl
@[simp] theorem State.setSeq_cmds (s : State) (c : Fin 256) (q : Role) (y : Seq) : (s.setSeq c q y).cmds = s.cmds := rfl
@[simp] theorem State.setSeq_erg (s : State) (c : Fin 256) (q : Role) (y : Seq) : (s.setSeq c q y).erg = s.erg := rfl
@[simp] theorem State.setSeq_ctxs (s : State) (c : Fin 256) (q : Role) (y : Seq) : (s.setSeq c q y).ctxs = s.ctxs := rfl
@[simp] theorem State.setSeq_fab (s : State) (c : Fin 256) (q : Role) (y : Seq) : (s.setSeq c q y).fab = s.fab := rfl
@[simp] theorem State.setSeq_col (s : State) (c : Fin 256) (q : Role) (y : Seq) : (s.setSeq c q y).col = s.col := rfl
@[simp] theorem State.setSeq_host (s : State) (c : Fin 256) (q : Role) (y : Seq) : (s.setSeq c q y).host = s.host := rfl
@[simp] theorem State.setSeq_mgmt (s : State) (c : Fin 256) (q : Role) (y : Seq) : (s.setSeq c q y).mgmt = s.mgmt := rfl

/-! ### State.setMe -/

@[simp] theorem State.setMe_cell (s : State) (y : Seq) : (s.setMe y).cell = s.cell := rfl
@[simp] theorem State.setMe_role (s : State) (y : Seq) : (s.setMe y).role = s.role := rfl
@[simp] theorem State.setMe_agenda (s : State) (y : Seq) : (s.setMe y).agenda = s.agenda := rfl
@[simp] theorem State.setMe_arbiter (s : State) (y : Seq) : (s.setMe y).arbiter = s.arbiter := rfl
@[simp] theorem State.setMe_clk (s : State) (y : Seq) : (s.setMe y).clk = s.clk := rfl
@[simp] theorem State.setMe_mem (s : State) (y : Seq) : (s.setMe y).mem = s.mem := rfl
@[simp] theorem State.setMe_cells (s : State) (y : Seq) : (s.setMe y).cells = s.cells.set s.cell (s.myCell.setSeq s.role y) := rfl
@[simp] theorem State.setMe_cmds (s : State) (y : Seq) : (s.setMe y).cmds = s.cmds := rfl
@[simp] theorem State.setMe_erg (s : State) (y : Seq) : (s.setMe y).erg = s.erg := rfl
@[simp] theorem State.setMe_ctxs (s : State) (y : Seq) : (s.setMe y).ctxs = s.ctxs := rfl
@[simp] theorem State.setMe_fab (s : State) (y : Seq) : (s.setMe y).fab = s.fab := rfl
@[simp] theorem State.setMe_col (s : State) (y : Seq) : (s.setMe y).col = s.col := rfl
@[simp] theorem State.setMe_host (s : State) (y : Seq) : (s.setMe y).host = s.host := rfl
@[simp] theorem State.setMe_mgmt (s : State) (y : Seq) : (s.setMe y).mgmt = s.mgmt := rfl

/-! ### State.setG -/

@[simp] theorem State.setG_cell (s : State) (r : Reg) (v : Word) : (s.setG r v).cell = s.cell := by unfold State.setG; split <;> rfl
@[simp] theorem State.setG_role (s : State) (r : Reg) (v : Word) : (s.setG r v).role = s.role := by unfold State.setG; split <;> rfl
@[simp] theorem State.setG_agenda (s : State) (r : Reg) (v : Word) : (s.setG r v).agenda = s.agenda := by unfold State.setG; split <;> rfl
@[simp] theorem State.setG_arbiter (s : State) (r : Reg) (v : Word) : (s.setG r v).arbiter = s.arbiter := by unfold State.setG; split <;> rfl
@[simp] theorem State.setG_clk (s : State) (r : Reg) (v : Word) : (s.setG r v).clk = s.clk := by unfold State.setG; split <;> rfl
@[simp] theorem State.setG_mem (s : State) (r : Reg) (v : Word) : (s.setG r v).mem = s.mem := by unfold State.setG; split <;> rfl
@[simp] theorem State.setG_cmds (s : State) (r : Reg) (v : Word) : (s.setG r v).cmds = s.cmds := by unfold State.setG; split <;> rfl
@[simp] theorem State.setG_erg (s : State) (r : Reg) (v : Word) : (s.setG r v).erg = s.erg := by unfold State.setG; split <;> rfl
@[simp] theorem State.setG_ctxs (s : State) (r : Reg) (v : Word) : (s.setG r v).ctxs = s.ctxs := by unfold State.setG; split <;> rfl
@[simp] theorem State.setG_fab (s : State) (r : Reg) (v : Word) : (s.setG r v).fab = s.fab := by unfold State.setG; split <;> rfl
@[simp] theorem State.setG_col (s : State) (r : Reg) (v : Word) : (s.setG r v).col = s.col := by unfold State.setG; split <;> rfl
@[simp] theorem State.setG_host (s : State) (r : Reg) (v : Word) : (s.setG r v).host = s.host := by unfold State.setG; split <;> rfl
@[simp] theorem State.setG_mgmt (s : State) (r : Reg) (v : Word) : (s.setG r v).mgmt = s.mgmt := by unfold State.setG; split <;> rfl

/-! ### State.advance -/

@[simp] theorem State.advance_cell (s : State) (len : Nat) : (s.advance len).cell = s.cell := rfl
@[simp] theorem State.advance_role (s : State) (len : Nat) : (s.advance len).role = s.role := rfl
@[simp] theorem State.advance_agenda (s : State) (len : Nat) : (s.advance len).agenda = s.agenda := rfl
@[simp] theorem State.advance_arbiter (s : State) (len : Nat) : (s.advance len).arbiter = s.arbiter := rfl
@[simp] theorem State.advance_clk (s : State) (len : Nat) : (s.advance len).clk = s.clk := rfl
@[simp] theorem State.advance_mem (s : State) (len : Nat) : (s.advance len).mem = s.mem := rfl
@[simp] theorem State.advance_cmds (s : State) (len : Nat) : (s.advance len).cmds = s.cmds := rfl
@[simp] theorem State.advance_erg (s : State) (len : Nat) : (s.advance len).erg = s.erg := rfl
@[simp] theorem State.advance_ctxs (s : State) (len : Nat) : (s.advance len).ctxs = s.ctxs := rfl
@[simp] theorem State.advance_fab (s : State) (len : Nat) : (s.advance len).fab = s.fab := rfl
@[simp] theorem State.advance_col (s : State) (len : Nat) : (s.advance len).col = s.col := rfl
@[simp] theorem State.advance_host (s : State) (len : Nat) : (s.advance len).host = s.host := rfl
@[simp] theorem State.advance_mgmt (s : State) (len : Nat) : (s.advance len).mgmt = s.mgmt := rfl

/-! ### State.jumpTo -/

@[simp] theorem State.jumpTo_cell (s : State) (t : Word) : (s.jumpTo t).cell = s.cell := rfl
@[simp] theorem State.jumpTo_role (s : State) (t : Word) : (s.jumpTo t).role = s.role := rfl
@[simp] theorem State.jumpTo_agenda (s : State) (t : Word) : (s.jumpTo t).agenda = s.agenda := rfl
@[simp] theorem State.jumpTo_arbiter (s : State) (t : Word) : (s.jumpTo t).arbiter = s.arbiter := rfl
@[simp] theorem State.jumpTo_clk (s : State) (t : Word) : (s.jumpTo t).clk = s.clk := rfl
@[simp] theorem State.jumpTo_mem (s : State) (t : Word) : (s.jumpTo t).mem = s.mem := rfl
@[simp] theorem State.jumpTo_cmds (s : State) (t : Word) : (s.jumpTo t).cmds = s.cmds := rfl
@[simp] theorem State.jumpTo_erg (s : State) (t : Word) : (s.jumpTo t).erg = s.erg := rfl
@[simp] theorem State.jumpTo_ctxs (s : State) (t : Word) : (s.jumpTo t).ctxs = s.ctxs := rfl
@[simp] theorem State.jumpTo_fab (s : State) (t : Word) : (s.jumpTo t).fab = s.fab := rfl
@[simp] theorem State.jumpTo_col (s : State) (t : Word) : (s.jumpTo t).col = s.col := rfl
@[simp] theorem State.jumpTo_host (s : State) (t : Word) : (s.jumpTo t).host = s.host := rfl
@[simp] theorem State.jumpTo_mgmt (s : State) (t : Word) : (s.jumpTo t).mgmt = s.mgmt := rfl

/-! ### State.setCtx -/

@[simp] theorem State.setCtx_cell (s : State) (i : Fin 64) (x : Ctx) : (s.setCtx i x).cell = s.cell := rfl
@[simp] theorem State.setCtx_role (s : State) (i : Fin 64) (x : Ctx) : (s.setCtx i x).role = s.role := rfl
@[simp] theorem State.setCtx_agenda (s : State) (i : Fin 64) (x : Ctx) : (s.setCtx i x).agenda = s.agenda := rfl
@[simp] theorem State.setCtx_arbiter (s : State) (i : Fin 64) (x : Ctx) : (s.setCtx i x).arbiter = s.arbiter := rfl
@[simp] theorem State.setCtx_clk (s : State) (i : Fin 64) (x : Ctx) : (s.setCtx i x).clk = s.clk := rfl
@[simp] theorem State.setCtx_mem (s : State) (i : Fin 64) (x : Ctx) : (s.setCtx i x).mem = s.mem := rfl
@[simp] theorem State.setCtx_cells (s : State) (i : Fin 64) (x : Ctx) : (s.setCtx i x).cells = s.cells := rfl
@[simp] theorem State.setCtx_cmds (s : State) (i : Fin 64) (x : Ctx) : (s.setCtx i x).cmds = s.cmds := rfl
@[simp] theorem State.setCtx_erg (s : State) (i : Fin 64) (x : Ctx) : (s.setCtx i x).erg = s.erg := rfl
@[simp] theorem State.setCtx_ctxs (s : State) (i : Fin 64) (x : Ctx) : (s.setCtx i x).ctxs = s.ctxs.set i x := rfl
@[simp] theorem State.setCtx_fab (s : State) (i : Fin 64) (x : Ctx) : (s.setCtx i x).fab = s.fab := rfl
@[simp] theorem State.setCtx_col (s : State) (i : Fin 64) (x : Ctx) : (s.setCtx i x).col = s.col := rfl
@[simp] theorem State.setCtx_host (s : State) (i : Fin 64) (x : Ctx) : (s.setCtx i x).host = s.host := rfl
@[simp] theorem State.setCtx_mgmt (s : State) (i : Fin 64) (x : Ctx) : (s.setCtx i x).mgmt = s.mgmt := rfl

/-! ### State.bump -/

@[simp] theorem State.bump_cell (s : State) : s.bump.cell = s.cell := rfl
@[simp] theorem State.bump_role (s : State) : s.bump.role = s.role := rfl
@[simp] theorem State.bump_agenda (s : State) : s.bump.agenda = s.agenda := rfl
@[simp] theorem State.bump_arbiter (s : State) : s.bump.arbiter = s.arbiter := rfl
@[simp] theorem State.bump_clk (s : State) : s.bump.clk = { s.clk with nextId := s.clk.nextId + 1 } := rfl
@[simp] theorem State.bump_mem (s : State) : s.bump.mem = s.mem := rfl
@[simp] theorem State.bump_cells (s : State) : s.bump.cells = s.cells := rfl
@[simp] theorem State.bump_cmds (s : State) : s.bump.cmds = s.cmds := rfl
@[simp] theorem State.bump_erg (s : State) : s.bump.erg = s.erg := rfl
@[simp] theorem State.bump_ctxs (s : State) : s.bump.ctxs = s.ctxs := rfl
@[simp] theorem State.bump_fab (s : State) : s.bump.fab = s.fab := rfl
@[simp] theorem State.bump_col (s : State) : s.bump.col = s.col := rfl
@[simp] theorem State.bump_host (s : State) : s.bump.host = s.host := rfl
@[simp] theorem State.bump_mgmt (s : State) : s.bump.mgmt = s.mgmt := rfl

/-! ### State.setCmd -/

@[simp] theorem State.setCmd_cell (s : State) (x : Cmd) : (s.setCmd x).cell = s.cell := rfl
@[simp] theorem State.setCmd_role (s : State) (x : Cmd) : (s.setCmd x).role = s.role := rfl
@[simp] theorem State.setCmd_agenda (s : State) (x : Cmd) : (s.setCmd x).agenda = s.agenda := rfl
@[simp] theorem State.setCmd_arbiter (s : State) (x : Cmd) : (s.setCmd x).arbiter = s.arbiter := rfl
@[simp] theorem State.setCmd_clk (s : State) (x : Cmd) : (s.setCmd x).clk = s.clk := rfl
@[simp] theorem State.setCmd_mem (s : State) (x : Cmd) : (s.setCmd x).mem = s.mem := rfl
@[simp] theorem State.setCmd_cells (s : State) (x : Cmd) : (s.setCmd x).cells = s.cells := rfl
@[simp] theorem State.setCmd_cmds (s : State) (x : Cmd) : (s.setCmd x).cmds = s.cmds.map fun y => if y.id == x.id then x else y := rfl
@[simp] theorem State.setCmd_erg (s : State) (x : Cmd) : (s.setCmd x).erg = s.erg := rfl
@[simp] theorem State.setCmd_ctxs (s : State) (x : Cmd) : (s.setCmd x).ctxs = s.ctxs := rfl
@[simp] theorem State.setCmd_fab (s : State) (x : Cmd) : (s.setCmd x).fab = s.fab := rfl
@[simp] theorem State.setCmd_col (s : State) (x : Cmd) : (s.setCmd x).col = s.col := rfl
@[simp] theorem State.setCmd_host (s : State) (x : Cmd) : (s.setCmd x).host = s.host := rfl
@[simp] theorem State.setCmd_mgmt (s : State) (x : Cmd) : (s.setCmd x).mgmt = s.mgmt := rfl

/-! ### State.dropCmd -/

@[simp] theorem State.dropCmd_cell (s : State) (id : Nat) : (s.dropCmd id).cell = s.cell := rfl
@[simp] theorem State.dropCmd_role (s : State) (id : Nat) : (s.dropCmd id).role = s.role := rfl
@[simp] theorem State.dropCmd_agenda (s : State) (id : Nat) : (s.dropCmd id).agenda = s.agenda := rfl
@[simp] theorem State.dropCmd_arbiter (s : State) (id : Nat) : (s.dropCmd id).arbiter = s.arbiter := rfl
@[simp] theorem State.dropCmd_clk (s : State) (id : Nat) : (s.dropCmd id).clk = s.clk := rfl
@[simp] theorem State.dropCmd_mem (s : State) (id : Nat) : (s.dropCmd id).mem = s.mem := rfl
@[simp] theorem State.dropCmd_cells (s : State) (id : Nat) : (s.dropCmd id).cells = s.cells := rfl
@[simp] theorem State.dropCmd_cmds (s : State) (id : Nat) : (s.dropCmd id).cmds = s.cmds.filter fun y => y.id != id := rfl
@[simp] theorem State.dropCmd_erg (s : State) (id : Nat) : (s.dropCmd id).erg = s.erg := rfl
@[simp] theorem State.dropCmd_ctxs (s : State) (id : Nat) : (s.dropCmd id).ctxs = s.ctxs := rfl
@[simp] theorem State.dropCmd_fab (s : State) (id : Nat) : (s.dropCmd id).fab = s.fab := rfl
@[simp] theorem State.dropCmd_col (s : State) (id : Nat) : (s.dropCmd id).col = s.col := rfl
@[simp] theorem State.dropCmd_host (s : State) (id : Nat) : (s.dropCmd id).host = s.host := rfl
@[simp] theorem State.dropCmd_mgmt (s : State) (id : Nat) : (s.dropCmd id).mgmt = s.mgmt := rfl

/-! ### State.setTask -/

@[simp] theorem State.setTask_cell (s : State) (x : Task) : (s.setTask x).cell = s.cell := rfl
@[simp] theorem State.setTask_role (s : State) (x : Task) : (s.setTask x).role = s.role := rfl
@[simp] theorem State.setTask_agenda (s : State) (x : Task) : (s.setTask x).agenda = s.agenda := rfl
@[simp] theorem State.setTask_arbiter (s : State) (x : Task) : (s.setTask x).arbiter = s.arbiter := rfl
@[simp] theorem State.setTask_clk (s : State) (x : Task) : (s.setTask x).clk = s.clk := rfl
@[simp] theorem State.setTask_mem (s : State) (x : Task) : (s.setTask x).mem = s.mem := rfl
@[simp] theorem State.setTask_cells (s : State) (x : Task) : (s.setTask x).cells = s.cells := rfl
@[simp] theorem State.setTask_cmds (s : State) (x : Task) : (s.setTask x).cmds = s.cmds := rfl
@[simp] theorem State.setTask_erg (s : State) (x : Task) : (s.setTask x).erg = { s.erg with tasks := s.erg.tasks.map fun y => if y.stamp == x.stamp then x else y } := rfl
@[simp] theorem State.setTask_ctxs (s : State) (x : Task) : (s.setTask x).ctxs = s.ctxs := rfl
@[simp] theorem State.setTask_fab (s : State) (x : Task) : (s.setTask x).fab = s.fab := rfl
@[simp] theorem State.setTask_col (s : State) (x : Task) : (s.setTask x).col = s.col := rfl
@[simp] theorem State.setTask_host (s : State) (x : Task) : (s.setTask x).host = s.host := rfl
@[simp] theorem State.setTask_mgmt (s : State) (x : Task) : (s.setTask x).mgmt = s.mgmt := rfl

/-! ### State.sandglass -/

@[simp] theorem State.sandglass_cell (s : State) (a b d : Nat) (p : Word) : (s.sandglass a b d p).cell = s.cell := rfl
@[simp] theorem State.sandglass_role (s : State) (a b d : Nat) (p : Word) : (s.sandglass a b d p).role = s.role := rfl
@[simp] theorem State.sandglass_agenda (s : State) (a b d : Nat) (p : Word) : (s.sandglass a b d p).agenda = s.agenda := rfl
@[simp] theorem State.sandglass_arbiter (s : State) (a b d : Nat) (p : Word) : (s.sandglass a b d p).arbiter = s.arbiter := rfl
@[simp] theorem State.sandglass_clk (s : State) (a b d : Nat) (p : Word) : (s.sandglass a b d p).clk = s.clk := rfl
@[simp] theorem State.sandglass_mem (s : State) (a b d : Nat) (p : Word) : (s.sandglass a b d p).mem = s.mem := rfl
@[simp] theorem State.sandglass_cells (s : State) (a b d : Nat) (p : Word) : (s.sandglass a b d p).cells = s.cells := rfl
@[simp] theorem State.sandglass_cmds (s : State) (a b d : Nat) (p : Word) : (s.sandglass a b d p).cmds = s.cmds := rfl
@[simp] theorem State.sandglass_erg (s : State) (a b d : Nat) (p : Word) : (s.sandglass a b d p).erg = s.erg := rfl
@[simp] theorem State.sandglass_ctxs (s : State) (a b d : Nat) (p : Word) : (s.sandglass a b d p).ctxs = s.ctxs := rfl
@[simp] theorem State.sandglass_fab (s : State) (a b d : Nat) (p : Word) : (s.sandglass a b d p).fab = s.fab := rfl
@[simp] theorem State.sandglass_col (s : State) (a b d : Nat) (p : Word) : (s.sandglass a b d p).col = s.col := rfl
@[simp] theorem State.sandglass_host (s : State) (a b d : Nat) (p : Word) : (s.sandglass a b d p).host = s.host := rfl

/-! ### State.writeKey -/

@[simp] theorem State.writeKey_cell (s : State) (k : Nat) (v : Byte) (m : Nat) : (s.writeKey k v m).cell = s.cell := rfl
@[simp] theorem State.writeKey_role (s : State) (k : Nat) (v : Byte) (m : Nat) : (s.writeKey k v m).role = s.role := rfl
@[simp] theorem State.writeKey_agenda (s : State) (k : Nat) (v : Byte) (m : Nat) : (s.writeKey k v m).agenda = s.agenda := rfl
@[simp] theorem State.writeKey_arbiter (s : State) (k : Nat) (v : Byte) (m : Nat) : (s.writeKey k v m).arbiter = s.arbiter := rfl
@[simp] theorem State.writeKey_clk (s : State) (k : Nat) (v : Byte) (m : Nat) : (s.writeKey k v m).clk = s.clk := rfl
@[simp] theorem State.writeKey_mem (s : State) (k : Nat) (v : Byte) (m : Nat) : (s.writeKey k v m).mem = { s.mem with bytes := smSet emptyByte k v s.mem.bytes, keyTags := smSet KeyLine.clear (k / 64) (s.lineAfter k m) s.mem.keyTags } := rfl
@[simp] theorem State.writeKey_cells (s : State) (k : Nat) (v : Byte) (m : Nat) : (s.writeKey k v m).cells = s.cells := rfl
@[simp] theorem State.writeKey_cmds (s : State) (k : Nat) (v : Byte) (m : Nat) : (s.writeKey k v m).cmds = s.cmds := rfl
@[simp] theorem State.writeKey_erg (s : State) (k : Nat) (v : Byte) (m : Nat) : (s.writeKey k v m).erg = s.erg := rfl
@[simp] theorem State.writeKey_ctxs (s : State) (k : Nat) (v : Byte) (m : Nat) : (s.writeKey k v m).ctxs = s.ctxs := rfl
@[simp] theorem State.writeKey_fab (s : State) (k : Nat) (v : Byte) (m : Nat) : (s.writeKey k v m).fab = s.fab := rfl
@[simp] theorem State.writeKey_col (s : State) (k : Nat) (v : Byte) (m : Nat) : (s.writeKey k v m).col = s.col := rfl
@[simp] theorem State.writeKey_host (s : State) (k : Nat) (v : Byte) (m : Nat) : (s.writeKey k v m).host = s.host := rfl
@[simp] theorem State.writeKey_mgmt (s : State) (k : Nat) (v : Byte) (m : Nat) : (s.writeKey k v m).mgmt = s.mgmt := rfl

/-! ### State.repair -/

@[simp] theorem State.repair_cell (s : State) (ks : List Nat) : (s.repair ks).cell = s.cell := rfl
@[simp] theorem State.repair_role (s : State) (ks : List Nat) : (s.repair ks).role = s.role := rfl
@[simp] theorem State.repair_agenda (s : State) (ks : List Nat) : (s.repair ks).agenda = s.agenda := rfl
@[simp] theorem State.repair_arbiter (s : State) (ks : List Nat) : (s.repair ks).arbiter = s.arbiter := rfl
@[simp] theorem State.repair_clk (s : State) (ks : List Nat) : (s.repair ks).clk = s.clk := rfl
@[simp] theorem State.repair_cells (s : State) (ks : List Nat) : (s.repair ks).cells = s.cells := rfl
@[simp] theorem State.repair_cmds (s : State) (ks : List Nat) : (s.repair ks).cmds = s.cmds := rfl
@[simp] theorem State.repair_erg (s : State) (ks : List Nat) : (s.repair ks).erg = s.erg := rfl
@[simp] theorem State.repair_ctxs (s : State) (ks : List Nat) : (s.repair ks).ctxs = s.ctxs := rfl
@[simp] theorem State.repair_fab (s : State) (ks : List Nat) : (s.repair ks).fab = s.fab := rfl
@[simp] theorem State.repair_col (s : State) (ks : List Nat) : (s.repair ks).col = s.col := rfl
@[simp] theorem State.repair_host (s : State) (ks : List Nat) : (s.repair ks).host = s.host := rfl
@[simp] theorem State.repair_mgmt (s : State) (ks : List Nat) : (s.repair ks).mgmt = s.mgmt := rfl

/-! ### State.putFlag -/

@[simp] theorem State.putFlag_cell (s : State) (c : Fin 64) (a : Nat) (v : BitVec 32) : (s.putFlag c a v).cell = s.cell := rfl
@[simp] theorem State.putFlag_role (s : State) (c : Fin 64) (a : Nat) (v : BitVec 32) : (s.putFlag c a v).role = s.role := rfl
@[simp] theorem State.putFlag_agenda (s : State) (c : Fin 64) (a : Nat) (v : BitVec 32) : (s.putFlag c a v).agenda = s.agenda := rfl
@[simp] theorem State.putFlag_arbiter (s : State) (c : Fin 64) (a : Nat) (v : BitVec 32) : (s.putFlag c a v).arbiter = s.arbiter := rfl
@[simp] theorem State.putFlag_clk (s : State) (c : Fin 64) (a : Nat) (v : BitVec 32) : (s.putFlag c a v).clk = s.clk := rfl
@[simp] theorem State.putFlag_mem (s : State) (c : Fin 64) (a : Nat) (v : BitVec 32) : (s.putFlag c a v).mem = { s.mem with flags := smSet 0 (flagKey c a) v s.mem.flags } := rfl
@[simp] theorem State.putFlag_cells (s : State) (c : Fin 64) (a : Nat) (v : BitVec 32) : (s.putFlag c a v).cells = s.cells := rfl
@[simp] theorem State.putFlag_cmds (s : State) (c : Fin 64) (a : Nat) (v : BitVec 32) : (s.putFlag c a v).cmds = s.cmds := rfl
@[simp] theorem State.putFlag_erg (s : State) (c : Fin 64) (a : Nat) (v : BitVec 32) : (s.putFlag c a v).erg = s.erg := rfl
@[simp] theorem State.putFlag_ctxs (s : State) (c : Fin 64) (a : Nat) (v : BitVec 32) : (s.putFlag c a v).ctxs = s.ctxs := rfl
@[simp] theorem State.putFlag_fab (s : State) (c : Fin 64) (a : Nat) (v : BitVec 32) : (s.putFlag c a v).fab = s.fab := rfl
@[simp] theorem State.putFlag_col (s : State) (c : Fin 64) (a : Nat) (v : BitVec 32) : (s.putFlag c a v).col = s.col := rfl
@[simp] theorem State.putFlag_host (s : State) (c : Fin 64) (a : Nat) (v : BitVec 32) : (s.putFlag c a v).host = s.host := rfl
@[simp] theorem State.putFlag_mgmt (s : State) (c : Fin 64) (a : Nat) (v : BitVec 32) : (s.putFlag c a v).mgmt = s.mgmt := rfl

/-! ### State.wakeFlag -/

@[simp] theorem State.wakeFlag_cell (s : State) (c : Fin 64) (a : Nat) (v : BitVec 32) : (s.wakeFlag c a v).cell = s.cell := rfl
@[simp] theorem State.wakeFlag_role (s : State) (c : Fin 64) (a : Nat) (v : BitVec 32) : (s.wakeFlag c a v).role = s.role := rfl
@[simp] theorem State.wakeFlag_agenda (s : State) (c : Fin 64) (a : Nat) (v : BitVec 32) : (s.wakeFlag c a v).agenda = s.agenda := rfl
@[simp] theorem State.wakeFlag_arbiter (s : State) (c : Fin 64) (a : Nat) (v : BitVec 32) : (s.wakeFlag c a v).arbiter = s.arbiter := rfl
@[simp] theorem State.wakeFlag_clk (s : State) (c : Fin 64) (a : Nat) (v : BitVec 32) : (s.wakeFlag c a v).clk = s.clk := rfl
@[simp] theorem State.wakeFlag_mem (s : State) (c : Fin 64) (a : Nat) (v : BitVec 32) : (s.wakeFlag c a v).mem = s.mem := rfl
@[simp] theorem State.wakeFlag_cmds (s : State) (c : Fin 64) (a : Nat) (v : BitVec 32) : (s.wakeFlag c a v).cmds = s.cmds := rfl
@[simp] theorem State.wakeFlag_erg (s : State) (c : Fin 64) (a : Nat) (v : BitVec 32) : (s.wakeFlag c a v).erg = s.erg := rfl
@[simp] theorem State.wakeFlag_ctxs (s : State) (c : Fin 64) (a : Nat) (v : BitVec 32) : (s.wakeFlag c a v).ctxs = s.ctxs := rfl
@[simp] theorem State.wakeFlag_fab (s : State) (c : Fin 64) (a : Nat) (v : BitVec 32) : (s.wakeFlag c a v).fab = s.fab := rfl
@[simp] theorem State.wakeFlag_host (s : State) (c : Fin 64) (a : Nat) (v : BitVec 32) : (s.wakeFlag c a v).host = s.host := rfl
@[simp] theorem State.wakeFlag_mgmt (s : State) (c : Fin 64) (a : Nat) (v : BitVec 32) : (s.wakeFlag c a v).mgmt = s.mgmt := rfl

/-! ### State.setAccRow -/

@[simp] theorem State.setAccRow_cell (s : State) (c : Fin 256) (r : Nat) (v : AccRow) : (s.setAccRow c r v).cell = s.cell := rfl
@[simp] theorem State.setAccRow_role (s : State) (c : Fin 256) (r : Nat) (v : AccRow) : (s.setAccRow c r v).role = s.role := rfl
@[simp] theorem State.setAccRow_agenda (s : State) (c : Fin 256) (r : Nat) (v : AccRow) : (s.setAccRow c r v).agenda = s.agenda := rfl
@[simp] theorem State.setAccRow_arbiter (s : State) (c : Fin 256) (r : Nat) (v : AccRow) : (s.setAccRow c r v).arbiter = s.arbiter := rfl
@[simp] theorem State.setAccRow_clk (s : State) (c : Fin 256) (r : Nat) (v : AccRow) : (s.setAccRow c r v).clk = s.clk := rfl
@[simp] theorem State.setAccRow_cells (s : State) (c : Fin 256) (r : Nat) (v : AccRow) : (s.setAccRow c r v).cells = s.cells := rfl
@[simp] theorem State.setAccRow_cmds (s : State) (c : Fin 256) (r : Nat) (v : AccRow) : (s.setAccRow c r v).cmds = s.cmds := rfl
@[simp] theorem State.setAccRow_erg (s : State) (c : Fin 256) (r : Nat) (v : AccRow) : (s.setAccRow c r v).erg = s.erg := rfl
@[simp] theorem State.setAccRow_ctxs (s : State) (c : Fin 256) (r : Nat) (v : AccRow) : (s.setAccRow c r v).ctxs = s.ctxs := rfl
@[simp] theorem State.setAccRow_fab (s : State) (c : Fin 256) (r : Nat) (v : AccRow) : (s.setAccRow c r v).fab = s.fab := rfl
@[simp] theorem State.setAccRow_col (s : State) (c : Fin 256) (r : Nat) (v : AccRow) : (s.setAccRow c r v).col = s.col := rfl
@[simp] theorem State.setAccRow_host (s : State) (c : Fin 256) (r : Nat) (v : AccRow) : (s.setAccRow c r v).host = s.host := rfl
@[simp] theorem State.setAccRow_mgmt (s : State) (c : Fin 256) (r : Nat) (v : AccRow) : (s.setAccRow c r v).mgmt = s.mgmt := rfl

/-! ### State.abnormal -/

@[simp] theorem State.abnormal_cell (s : State) (e : AbEnd) : (s.abnormal e).cell = s.cell := rfl
@[simp] theorem State.abnormal_role (s : State) (e : AbEnd) : (s.abnormal e).role = s.role := rfl
@[simp] theorem State.abnormal_agenda (s : State) (e : AbEnd) : (s.abnormal e).agenda = s.agenda := rfl
@[simp] theorem State.abnormal_arbiter (s : State) (e : AbEnd) : (s.abnormal e).arbiter = s.arbiter := rfl
@[simp] theorem State.abnormal_clk (s : State) (e : AbEnd) : (s.abnormal e).clk = s.clk := rfl
@[simp] theorem State.abnormal_mem (s : State) (e : AbEnd) : (s.abnormal e).mem = s.mem := rfl
@[simp] theorem State.abnormal_cells (s : State) (e : AbEnd) : (s.abnormal e).cells = s.cells := rfl
@[simp] theorem State.abnormal_cmds (s : State) (e : AbEnd) : (s.abnormal e).cmds = s.cmds := rfl
@[simp] theorem State.abnormal_ctxs (s : State) (e : AbEnd) : (s.abnormal e).ctxs = s.ctxs := rfl
@[simp] theorem State.abnormal_fab (s : State) (e : AbEnd) : (s.abnormal e).fab = s.fab := rfl
@[simp] theorem State.abnormal_col (s : State) (e : AbEnd) : (s.abnormal e).col = s.col := rfl
@[simp] theorem State.abnormal_host (s : State) (e : AbEnd) : (s.abnormal e).host = s.host := rfl
@[simp] theorem State.abnormal_mgmt (s : State) (e : AbEnd) : (s.abnormal e).mgmt = s.mgmt := rfl

/-! ### State.freeFrames -/

@[simp] theorem State.freeFrames_cell (s : State) : s.freeFrames.cell = s.cell := rfl
@[simp] theorem State.freeFrames_role (s : State) : s.freeFrames.role = s.role := rfl
@[simp] theorem State.freeFrames_agenda (s : State) : s.freeFrames.agenda = s.agenda := rfl
@[simp] theorem State.freeFrames_arbiter (s : State) : s.freeFrames.arbiter = s.arbiter := rfl
@[simp] theorem State.freeFrames_clk (s : State) : s.freeFrames.clk = s.clk := rfl
@[simp] theorem State.freeFrames_mem (s : State) : s.freeFrames.mem = s.mem := rfl
@[simp] theorem State.freeFrames_cells (s : State) : s.freeFrames.cells = s.cells := rfl
@[simp] theorem State.freeFrames_cmds (s : State) : s.freeFrames.cmds = s.cmds := rfl
@[simp] theorem State.freeFrames_ctxs (s : State) : s.freeFrames.ctxs = s.ctxs := rfl
@[simp] theorem State.freeFrames_fab (s : State) : s.freeFrames.fab = s.fab := rfl
@[simp] theorem State.freeFrames_col (s : State) : s.freeFrames.col = s.col := rfl
@[simp] theorem State.freeFrames_host (s : State) : s.freeFrames.host = s.host := rfl
@[simp] theorem State.freeFrames_mgmt (s : State) : s.freeFrames.mgmt = s.mgmt := rfl

/-! ### State.readyDependents -/

@[simp] theorem State.readyDependents_cell (s : State) (n : Nat) : (s.readyDependents n).cell = s.cell := rfl
@[simp] theorem State.readyDependents_role (s : State) (n : Nat) : (s.readyDependents n).role = s.role := rfl
@[simp] theorem State.readyDependents_agenda (s : State) (n : Nat) : (s.readyDependents n).agenda = s.agenda := rfl
@[simp] theorem State.readyDependents_arbiter (s : State) (n : Nat) : (s.readyDependents n).arbiter = s.arbiter := rfl
@[simp] theorem State.readyDependents_clk (s : State) (n : Nat) : (s.readyDependents n).clk = s.clk := rfl
@[simp] theorem State.readyDependents_mem (s : State) (n : Nat) : (s.readyDependents n).mem = s.mem := rfl
@[simp] theorem State.readyDependents_cells (s : State) (n : Nat) : (s.readyDependents n).cells = s.cells := rfl
@[simp] theorem State.readyDependents_cmds (s : State) (n : Nat) : (s.readyDependents n).cmds = s.cmds := rfl
@[simp] theorem State.readyDependents_ctxs (s : State) (n : Nat) : (s.readyDependents n).ctxs = s.ctxs := rfl
@[simp] theorem State.readyDependents_fab (s : State) (n : Nat) : (s.readyDependents n).fab = s.fab := rfl
@[simp] theorem State.readyDependents_col (s : State) (n : Nat) : (s.readyDependents n).col = s.col := rfl
@[simp] theorem State.readyDependents_host (s : State) (n : Nat) : (s.readyDependents n).host = s.host := rfl
@[simp] theorem State.readyDependents_mgmt (s : State) (n : Nat) : (s.readyDependents n).mgmt = s.mgmt := rfl

/-! ### State.dropReads -/

@[simp] theorem State.dropReads_cell (s : State) (n : Nat) : (s.dropReads n).cell = s.cell := rfl
@[simp] theorem State.dropReads_role (s : State) (n : Nat) : (s.dropReads n).role = s.role := rfl
@[simp] theorem State.dropReads_agenda (s : State) (n : Nat) : (s.dropReads n).agenda = s.agenda := rfl
@[simp] theorem State.dropReads_arbiter (s : State) (n : Nat) : (s.dropReads n).arbiter = s.arbiter := rfl
@[simp] theorem State.dropReads_clk (s : State) (n : Nat) : (s.dropReads n).clk = s.clk := rfl
@[simp] theorem State.dropReads_cells (s : State) (n : Nat) : (s.dropReads n).cells = s.cells := rfl
@[simp] theorem State.dropReads_cmds (s : State) (n : Nat) : (s.dropReads n).cmds = s.cmds := rfl
@[simp] theorem State.dropReads_erg (s : State) (n : Nat) : (s.dropReads n).erg = s.erg := rfl
@[simp] theorem State.dropReads_ctxs (s : State) (n : Nat) : (s.dropReads n).ctxs = s.ctxs := rfl
@[simp] theorem State.dropReads_col (s : State) (n : Nat) : (s.dropReads n).col = s.col := rfl
@[simp] theorem State.dropReads_host (s : State) (n : Nat) : (s.dropReads n).host = s.host := rfl
@[simp] theorem State.dropReads_mgmt (s : State) (n : Nat) : (s.dropReads n).mgmt = s.mgmt := rfl

/-! ### State.sweepRing -/

@[simp] theorem State.sweepRing_cell (s : State) (c : Fin 256) : (s.sweepRing c).cell = s.cell := rfl
@[simp] theorem State.sweepRing_role (s : State) (c : Fin 256) : (s.sweepRing c).role = s.role := rfl
@[simp] theorem State.sweepRing_agenda (s : State) (c : Fin 256) : (s.sweepRing c).agenda = s.agenda := rfl
@[simp] theorem State.sweepRing_arbiter (s : State) (c : Fin 256) : (s.sweepRing c).arbiter = s.arbiter := rfl
@[simp] theorem State.sweepRing_clk (s : State) (c : Fin 256) : (s.sweepRing c).clk = s.clk := rfl
@[simp] theorem State.sweepRing_mem (s : State) (c : Fin 256) : (s.sweepRing c).mem = s.mem := rfl
@[simp] theorem State.sweepRing_cmds (s : State) (c : Fin 256) : (s.sweepRing c).cmds = s.cmds := rfl
@[simp] theorem State.sweepRing_erg (s : State) (c : Fin 256) : (s.sweepRing c).erg = s.erg := rfl
@[simp] theorem State.sweepRing_ctxs (s : State) (c : Fin 256) : (s.sweepRing c).ctxs = s.ctxs := rfl
@[simp] theorem State.sweepRing_fab (s : State) (c : Fin 256) : (s.sweepRing c).fab = s.fab := rfl
@[simp] theorem State.sweepRing_col (s : State) (c : Fin 256) : (s.sweepRing c).col = s.col := rfl
@[simp] theorem State.sweepRing_host (s : State) (c : Fin 256) : (s.sweepRing c).host = s.host := rfl
@[simp] theorem State.sweepRing_mgmt (s : State) (c : Fin 256) : (s.sweepRing c).mgmt = s.mgmt := rfl

/-! ### State.cmdGives -/

@[simp] theorem State.cmdGives_cell (s : State) (m : Cmd) : (s.cmdGives m).cell = s.cell := by unfold State.cmdGives; split <;> rfl
@[simp] theorem State.cmdGives_role (s : State) (m : Cmd) : (s.cmdGives m).role = s.role := by unfold State.cmdGives; split <;> rfl
@[simp] theorem State.cmdGives_agenda (s : State) (m : Cmd) : (s.cmdGives m).agenda = s.agenda := by unfold State.cmdGives; split <;> rfl
@[simp] theorem State.cmdGives_arbiter (s : State) (m : Cmd) : (s.cmdGives m).arbiter = s.arbiter := by unfold State.cmdGives; split <;> rfl
@[simp] theorem State.cmdGives_clk (s : State) (m : Cmd) : (s.cmdGives m).clk = s.clk := by unfold State.cmdGives; split <;> rfl
@[simp] theorem State.cmdGives_mem (s : State) (m : Cmd) : (s.cmdGives m).mem = s.mem := by unfold State.cmdGives; split <;> rfl
@[simp] theorem State.cmdGives_cmds (s : State) (m : Cmd) : (s.cmdGives m).cmds = s.cmds := by unfold State.cmdGives; split <;> rfl
@[simp] theorem State.cmdGives_erg (s : State) (m : Cmd) : (s.cmdGives m).erg = s.erg := by unfold State.cmdGives; split <;> rfl
@[simp] theorem State.cmdGives_ctxs (s : State) (m : Cmd) : (s.cmdGives m).ctxs = s.ctxs := by unfold State.cmdGives; split <;> rfl
@[simp] theorem State.cmdGives_fab (s : State) (m : Cmd) : (s.cmdGives m).fab = s.fab := by unfold State.cmdGives; split <;> rfl
@[simp] theorem State.cmdGives_col (s : State) (m : Cmd) : (s.cmdGives m).col = s.col := by unfold State.cmdGives; split <;> rfl
@[simp] theorem State.cmdGives_host (s : State) (m : Cmd) : (s.cmdGives m).host = s.host := by unfold State.cmdGives; split <;> rfl
@[simp] theorem State.cmdGives_mgmt (s : State) (m : Cmd) : (s.cmdGives m).mgmt = s.mgmt := by unfold State.cmdGives; split <;> rfl

/-! ### State.discardCmd -/

@[simp] theorem State.discardCmd_cell (s : State) (m : Cmd) : (s.discardCmd m).cell = s.cell := by unfold State.discardCmd; dsimp only; split <;> simp
@[simp] theorem State.discardCmd_role (s : State) (m : Cmd) : (s.discardCmd m).role = s.role := by unfold State.discardCmd; dsimp only; split <;> simp
@[simp] theorem State.discardCmd_agenda (s : State) (m : Cmd) : (s.discardCmd m).agenda = s.agenda := by unfold State.discardCmd; dsimp only; split <;> simp
@[simp] theorem State.discardCmd_arbiter (s : State) (m : Cmd) : (s.discardCmd m).arbiter = s.arbiter := by unfold State.discardCmd; dsimp only; split <;> simp
@[simp] theorem State.discardCmd_clk (s : State) (m : Cmd) : (s.discardCmd m).clk = s.clk := by unfold State.discardCmd; dsimp only; split <;> simp
@[simp] theorem State.discardCmd_erg (s : State) (m : Cmd) : (s.discardCmd m).erg = s.erg := by unfold State.discardCmd; dsimp only; split <;> simp
@[simp] theorem State.discardCmd_ctxs (s : State) (m : Cmd) : (s.discardCmd m).ctxs = s.ctxs := by unfold State.discardCmd; dsimp only; split <;> simp
@[simp] theorem State.discardCmd_col (s : State) (m : Cmd) : (s.discardCmd m).col = s.col := by unfold State.discardCmd; dsimp only; split <;> simp
@[simp] theorem State.discardCmd_host (s : State) (m : Cmd) : (s.discardCmd m).host = s.host := by unfold State.discardCmd; dsimp only; split <;> simp
@[simp] theorem State.discardCmd_mgmt (s : State) (m : Cmd) : (s.discardCmd m).mgmt = s.mgmt := by unfold State.discardCmd; dsimp only; split <;> simp

/-! ### State.reportFlags -/

@[simp] theorem State.reportFlags_cell (s : State) (c : Fin 256) (f : Flg) : (s.reportFlags c f).cell = s.cell := rfl
@[simp] theorem State.reportFlags_role (s : State) (c : Fin 256) (f : Flg) : (s.reportFlags c f).role = s.role := rfl
@[simp] theorem State.reportFlags_agenda (s : State) (c : Fin 256) (f : Flg) : (s.reportFlags c f).agenda = s.agenda := rfl
@[simp] theorem State.reportFlags_arbiter (s : State) (c : Fin 256) (f : Flg) : (s.reportFlags c f).arbiter = s.arbiter := rfl
@[simp] theorem State.reportFlags_clk (s : State) (c : Fin 256) (f : Flg) : (s.reportFlags c f).clk = s.clk := rfl
@[simp] theorem State.reportFlags_mem (s : State) (c : Fin 256) (f : Flg) : (s.reportFlags c f).mem = s.mem := rfl
@[simp] theorem State.reportFlags_cmds (s : State) (c : Fin 256) (f : Flg) : (s.reportFlags c f).cmds = s.cmds := rfl
@[simp] theorem State.reportFlags_erg (s : State) (c : Fin 256) (f : Flg) : (s.reportFlags c f).erg = s.erg := rfl
@[simp] theorem State.reportFlags_ctxs (s : State) (c : Fin 256) (f : Flg) : (s.reportFlags c f).ctxs = s.ctxs := rfl
@[simp] theorem State.reportFlags_fab (s : State) (c : Fin 256) (f : Flg) : (s.reportFlags c f).fab = s.fab := rfl
@[simp] theorem State.reportFlags_col (s : State) (c : Fin 256) (f : Flg) : (s.reportFlags c f).col = s.col := rfl
@[simp] theorem State.reportFlags_host (s : State) (c : Fin 256) (f : Flg) : (s.reportFlags c f).host = s.host := rfl
@[simp] theorem State.reportFlags_mgmt (s : State) (c : Fin 256) (f : Flg) : (s.reportFlags c f).mgmt = s.mgmt := rfl

/-! ### Reading back -/

@[simp] theorem State.cellAt_setCell (s : State) (c : Fin 256) (x : Cell) : (s.setCell c x).cellAt c = x := by
  simp [State.cellAt]

theorem State.cellAt_setCell_ne (s : State) (x : Cell) {c d : Fin 256} (h : d ≠ c) : (s.setCell c x).cellAt d = s.cellAt d := by
  have h1 : c.val ≠ d.val := fun e => h (Fin.ext e.symm)
  simp [State.cellAt, Vector.getElem_set_ne, h1]

@[simp] theorem State.myCell_setMyCell (s : State) (x : Cell) : (s.setMyCell x).myCell = x := s.cellAt_setCell s.cell x

theorem roleIx_inj {p q : Role} (h : roleIx p = roleIx q) : p = q := by cases p <;> cases q <;> first | rfl | simp [roleIx] at h

@[simp] theorem Cell.seqOf_setSeq (x : Cell) (q : Role) (y : Seq) : (x.setSeq q y).seqOf q = y := by
  simp [Cell.seqOf, Cell.setSeq]

theorem Cell.seqOf_setSeq_ne (x : Cell) (y : Seq) {p q : Role} (h : p ≠ q) : (x.setSeq q y).seqOf p = x.seqOf p := by
  have h1 : (roleIx q).val ≠ (roleIx p).val := fun e => h (roleIx_inj (Fin.ext e.symm))
  simp [Cell.seqOf, Cell.setSeq, Vector.getElem_set_ne, h1]

@[simp] theorem Cell.seqOf_progressed (x : Cell) (q : Role) : x.progressed.seqOf q = x.seqOf q := rfl

@[simp] theorem State.me_setMe (s : State) (y : Seq) : (s.setMe y).me = y := by
  simp [State.me, State.setMe, State.setSeq, State.seqAt]

@[simp] theorem State.ctxAt_setCtx (s : State) (i : Fin 64) (x : Ctx) : (s.setCtx i x).ctxAt i = x := by
  simp [State.ctxAt]

theorem State.ctxAt_setCtx_ne (s : State) (x : Ctx) {i j : Fin 64} (h : j ≠ i) : (s.setCtx i x).ctxAt j = s.ctxAt j := by
  have h1 : i.val ≠ j.val := fun e => h (Fin.ext e.symm)
  simp [State.ctxAt, Vector.getElem_set_ne, h1]

/-! ### Writing back what is there -/

@[simp] theorem State.setCell_cellAt (s : State) (c : Fin 256) : s.setCell c (s.cellAt c) = s := by
  simp [State.setCell, State.cellAt]

@[simp] theorem State.setMyCell_myCell (s : State) : s.setMyCell s.myCell = s := s.setCell_cellAt s.cell

@[simp] theorem Cell.setSeq_seqOf (x : Cell) (q : Role) : x.setSeq q (x.seqOf q) = x := by
  simp [Cell.setSeq, Cell.seqOf]

@[simp] theorem State.setMe_me (s : State) : s.setMe s.me = s := by
  simp [State.setMe, State.setSeq, State.me, State.seqAt]

end Sys2Proof.Machine
end

