-- ==== Sys2Proof/Laws/SMap.lean ====
section
/-! SUPPORT. The sparse maps: reading back a write, and the canonical form that every write and every filter keeps. -/

namespace Sys2Proof.Machine

variable {β : Type} [DecidableEq β] {d : β}

/-- The canonical form said with the order of the keys and the values apart. -/
theorem smWf_iff (m : SMap β) : smWf d m = true ↔ (m.map (·.1)).Pairwise (· < ·) ∧ ∀ e ∈ m, e.2 ≠ d := by
  induction m with
  | nil => simp [smWf]
  | cons e t ih =>
    cases t with
    | nil => simp [smWf]
    | cons e' t' =>
      simp only [smWf, Bool.and_eq_true, decide_eq_true_eq, ih, List.map_cons, List.pairwise_cons, List.mem_cons]
      constructor
      · rintro ⟨⟨h1, h2⟩, ⟨h3, h4⟩, h5⟩
        refine ⟨⟨?_, h3, h4⟩, ?_⟩
        · rintro k (rfl | hk)
          · exact h2
          · exact Nat.lt_trans h2 (h3 k hk)
        · rintro x (rfl | hx)
          · exact h1
          · exact h5 x hx
      · rintro ⟨⟨h1, h2, h3⟩, h4⟩
        exact ⟨⟨h4 e (Or.inl rfl), h1 _ (Or.inl rfl)⟩, ⟨h2, h3⟩, fun x hx => h4 x (Or.inr hx)⟩

theorem smWf_nil : smWf d [] = true := rfl

theorem smWf_cons {k : Nat} {v : β} {t : SMap β} :
    smWf d ((k, v) :: t) = true ↔ v ≠ d ∧ (∀ e ∈ t, k < e.1) ∧ smWf d t = true := by
  rw [smWf_iff, smWf_iff]
  simp only [List.map_cons, List.pairwise_cons, List.mem_cons, List.mem_map]
  constructor
  · rintro ⟨⟨h1, h2⟩, h3⟩
    exact ⟨h3 _ (Or.inl rfl), fun e he => h1 _ ⟨e, he, rfl⟩, h2, fun e he => h3 e (Or.inr he)⟩
  · rintro ⟨h1, h2, h3, h4⟩
    refine ⟨⟨?_, h3⟩, ?_⟩
    · rintro k' ⟨e, he, rfl⟩
      exact h2 e he
    · rintro e (rfl | he)
      · exact h1
      · exact h4 e he

omit [DecidableEq β] in
/-- A key below every listed key reads the default. -/
theorem smGet_below {k : Nat} {m : SMap β} (h : ∀ e ∈ m, k < e.1) : smGet d k m = d := by
  cases m with
  | nil => rfl
  | cons e t => simp [smGet, h e (List.mem_cons_self ..)]

/-- A write changes no listed key but its own. -/
theorem mem_smSet {k : Nat} {v : β} {m : SMap β} {e : Nat × β} (h : e ∈ smSet d k v m) : e = (k, v) ∧ v ≠ d ∨ e ∈ m := by
  induction m with
  | nil =>
    unfold smSet at h
    split at h
    · simp at h
    · rename_i hv
      simp at h
      exact Or.inl ⟨h, hv⟩
  | cons x t ih =>
    unfold smSet at h
    split at h
    · split at h
      · exact Or.inr h
      · rename_i hv
        rcases List.mem_cons.1 h with h | h
        · exact Or.inl ⟨h, hv⟩
        · exact Or.inr h
    · split at h
      · split at h
        · exact Or.inr (List.mem_cons_of_mem _ h)
        · rename_i hv
          rcases List.mem_cons.1 h with h | h
          · exact Or.inl ⟨h, hv⟩
          · exact Or.inr (List.mem_cons_of_mem _ h)
      · rcases List.mem_cons.1 h with h | h
        · exact Or.inr (h ▸ List.mem_cons_self ..)
        · rcases ih h with h | h
          · exact Or.inl h
          · exact Or.inr (List.mem_cons_of_mem _ h)

/-- A write keeps the canonical form. -/
theorem smWf_smSet {k : Nat} {v : β} {m : SMap β} (h : smWf d m = true) : smWf d (smSet d k v m) = true := by
  induction m with
  | nil =>
    unfold smSet
    split
    · rfl
    · rename_i hv
      exact smWf_cons.2 ⟨hv, by simp, rfl⟩
  | cons x t ih =>
    obtain ⟨k', v'⟩ := x
    obtain ⟨h1, h2, h3⟩ := smWf_cons.1 h
    unfold smSet
    split
    · rename_i hk
      split
      · exact h
      · rename_i hv
        refine smWf_cons.2 ⟨hv, ?_, h⟩
        intro e he
        rcases List.mem_cons.1 he with rfl | he
        · exact hk
        · exact Nat.lt_trans hk (h2 e he)
    · rename_i hk
      split
      · rename_i he
        subst he
        split
        · exact h3
        · rename_i hv
          exact smWf_cons.2 ⟨hv, h2, h3⟩
      · rename_i he
        refine smWf_cons.2 ⟨h1, ?_, ih h3⟩
        intro e he'
        rcases mem_smSet he' with ⟨rfl, _⟩ | he'
        · simp only at *
          omega
        · exact h2 e he'

/-- Dropping entries keeps the canonical form. -/
theorem smWf_filter (p : Nat × β → Bool) {m : SMap β} (h : smWf d m = true) : smWf d (m.filter p) = true := by
  rw [smWf_iff] at h ⊢
  refine ⟨?_, fun e he => h.2 e (List.mem_filter.1 he).1⟩
  exact List.Pairwise.sublist (List.Sublist.map _ List.filter_sublist) h.1

/-- Reading back the key that was written. -/
theorem smGet_smSet_same {k : Nat} {v : β} {m : SMap β} (h : smWf d m = true) : smGet d k (smSet d k v m) = v := by
  induction m with
  | nil =>
    unfold smSet
    split
    · rename_i hv; simp [smGet, hv]
    · simp [smGet]
  | cons x t ih =>
    obtain ⟨k', v'⟩ := x
    obtain ⟨h1, h2, h3⟩ := smWf_cons.1 h
    unfold smSet
    split
    · rename_i hk
      split
      · rename_i hv; simp [smGet, hk, hv]
      · simp [smGet]
    · rename_i hk
      split
      · rename_i he
        subst he
        split
        · rename_i hv; rw [smGet_below h2, hv]
        · simp [smGet]
      · rename_i he
        simp only [smGet, hk, he, if_false]
        exact ih h3

/-- Reading another key. -/
theorem smGet_smSet_ne {k j : Nat} {v : β} {m : SMap β} (h : smWf d m = true) (hj : j ≠ k) :
    smGet d j (smSet d k v m) = smGet d j m := by
  induction m with
  | nil =>
    unfold smSet
    split
    · rfl
    · simp only [smGet, if_neg hj]
      split <;> rfl
  | cons x t ih =>
    obtain ⟨k', v'⟩ := x
    obtain ⟨h1, h2, h3⟩ := smWf_cons.1 h
    unfold smSet
    split
    · rename_i hk
      split
      · rfl
      · simp only [smGet]
        by_cases a : j < k
        · have : j < k' := by omega
          simp [a, this]
        · simp [a, hj]
    · rename_i hk
      split
      · rename_i he
        subst he
        have below : ∀ (a : j < k), smGet d j t = d := fun a => smGet_below fun e he => Nat.lt_trans a (h2 e he)
        split
        · simp only [smGet, if_neg hj]
          by_cases a : j < k
          · rw [if_pos a, below a]
          · rw [if_neg a]
        · simp only [smGet, if_neg hj]
      · simp only [smGet]
        rw [ih h3]

end Sys2Proof.Machine
end

