-- ==== Sys2Proof/Laws/Seq.lean ====
section
/-! SUPPORT. What the operations that end an instruction of a sequencer can do: going on, jumping, writing a register, and the order in
which an instruction is judged. -/

namespace Sys2Proof.Machine

open Host (Outcome)

/-! ### The acting sequencer -/

theorem allRoles_contains (q : Role) : allRoles.contains q = true := by cases q <;> rfl

@[simp] theorem State.g_zero (s : State) : s.g 0 = 0 := rfl

theorem State.me_setG (s : State) (d : Reg) (v : Word) :
    (s.setG d v).me = if d = 0 then s.me else { s.me with g := s.me.g.set d v } := by
  unfold State.setG; split <;> simp

theorem State.g_setG (s : State) (d r : Reg) (v : Word) : (s.setG d v).g r = if r = d ∧ d ≠ 0 then v else s.g r := by
  unfold State.g
  rw [State.me_setG]
  by_cases hr : r = 0
  · subst hr; simp; intro h1 h2; exact absurd h1.symm h2
  · by_cases hd : d = 0
    · subst hd; simp [hr]
    · by_cases h : r = d
      · subst h; simp [hr]
      · have h1 : d.val ≠ r.val := fun e => h (Fin.ext e.symm)
        simp [hr, hd, h, Vector.getElem_set_ne, h1]

theorem State.me_advance (s : State) (len : Nat) :
    (s.advance len).me =
      (s.me.goOn (s.me.pc + word len)).settle s.myCell.stopReq ((s.me.goOn (s.me.pc + word len)).loops != s.me.loops) := by
  simp [State.me, State.advance, State.seqAt, State.myCell, State.setMyCell]

theorem State.me_jumpTo (s : State) (t : Word) :
    (s.jumpTo t).me =
      ({ s.me with pc := t, loops := if s.me.hnd then s.me.loops else transferLoops s.me.loops t } : Seq).settle
        s.myCell.stopReq false := by
  simp [State.me, State.jumpTo, State.seqAt, State.myCell, State.setMyCell]

theorem Seq.goOn_own (q : Seq) (next : Word) : q.goOn next = { q with pc := (q.goOn next).pc, loops := (q.goOn next).loops } := by
  unfold Seq.goOn; split <;> rfl

/-- `loopCheck` is the loop-end check of R389. -/
theorem loopCheck_loopEnd (ls : List LoopLevel) (next : Word) : LoopEnd ls next (loopCheck ls next).1 (loopCheck ls next).2 := by
  induction ls with
  | nil => exact .none next
  | cons l t ih =>
    unfold loopCheck
    split
    · rename_i h
      split
      · rename_i r
        exact .ends l t _ next _ h (by rw [r]; rfl) ih
      · rename_i r
        refine .again l t next h fun e => r ?_
        have h1 : l.remain - 1 + 1 = 0 + 1 := by rw [e]
        rwa [BitVec.sub_add_cancel] at h1
    · rename_i h
      exact .inside l t next (Nat.lt_of_not_le h)

theorem goOn_next (q : Seq) (next : Word) :
    if q.hnd then (q.goOn next).pc = next ∧ (q.goOn next).loops = q.loops else LoopEnd q.loops next (q.goOn next).loops (q.goOn next).pc := by
  unfold Seq.goOn
  cases h : q.hnd
  · simpa using loopCheck_loopEnd q.loops next
  · simp

/-- `transferLoops` keeps the longest part of the stack whose levels all hold the target. -/
theorem transferLoops_left (ls : List LoopLevel) (t : Word) : LoopsLeft ls (transferLoops ls t) t := by
  induction ls with
  | nil => exact ⟨[], rfl, by simp [transferLoops], by simp⟩
  | cons l ls ih =>
    obtain ⟨ended, h1, h2, h3⟩ := ih
    unfold transferLoops
    simp only
    split
    · rename_i h
      refine ⟨l :: ended, by rw [List.cons_append, ← h1], h2, ?_⟩
      have : ended ≠ [] := by
        rintro rfl
        simp at h1
        rw [← h1] at h
        exact Nat.lt_irrefl _ h
      rw [List.getLast?_cons_of_ne_nil this]
      exact h3
    · rename_i h
      have he : ended = [] := by
        have hl := congrArg List.length h1
        rw [List.length_append] at hl
        cases ended with
        | nil => rfl
        | cons _ _ => simp only [List.length_cons] at hl; omega
      subst he
      simp only [List.nil_append] at h1
      rw [← h1] at h2
      split
      · rename_i hb
        refine ⟨[], rfl, ?_, by simp⟩
        intro x hx
        rcases List.mem_cons.1 hx with rfl | hx
        · simpa [LoopLevel.inBody] using hb
        · exact h2 x hx
      · rename_i hb
        refine ⟨[l], rfl, h2, ?_⟩
        simpa [LoopLevel.inBody] using hb

/-! ### Frames -/

theorem onlyMine_refl (s : State) : OnlyMine s s := ⟨rfl, fun _ _ => rfl, rfl, fun _ _ => rfl, fun _ => rfl⟩

/-- Replacing the acting sequencer, and marking progress on its cell, changes nothing else. -/
theorem onlyMine_setMyCell (s : State) (x : Cell) (p : Bool)
    (h1 : x = { s.myCell with seqs := x.seqs, progress := p }) (h2 : ∀ q, q ≠ s.role → x.seqOf q = s.myCell.seqOf q) :
    OnlyMine s (s.setMyCell x) where
  rest := rfl
  cells c hc := s.cellAt_setCell_ne x hc
  cell := by
    have : (s.setMyCell x).myCell = x := s.myCell_setMyCell x
    rw [this, h1]
  seqs q hq := by
    have : (s.setMyCell x).cellAt s.cell = x := s.cellAt_setCell s.cell x
    simp only [State.seqAt, this]
    exact h2 q hq
  mem _ := rfl

theorem onlyMine_trans {s t u : State} (h : OnlyMine s t) (k : OnlyMine t u) : OnlyMine s u := by
  have hc : t.cell = s.cell := by rw [h.rest]
  have hr : t.role = s.role := by rw [h.rest]
  refine ⟨?_, ?_, ?_, ?_, ?_⟩
  · rw [k.rest, h.rest]
  · intro c e
    rw [k.cells c (by rw [hc]; exact e), h.cells c e]
  · have := k.cell
    rw [h.cell] at this
    simpa using this
  · intro q e
    have := k.seqs q (by rw [hr]; exact e)
    rw [hc] at this
    rw [this, h.seqs q e]
  · intro i
    rw [k.mem, h.mem]

theorem onlyMine_setMe (s : State) (y : Seq) : OnlyMine s (s.setMe y) :=
  onlyMine_setMyCell s (s.myCell.setSeq s.role y) s.myCell.progress rfl fun _ hq => Cell.seqOf_setSeq_ne _ _ hq

theorem onlyMine_setG (s : State) (d : Reg) (v : Word) : OnlyMine s (s.setG d v) := by
  unfold State.setG
  split
  · exact onlyMine_refl s
  · exact onlyMine_setMe s _

theorem onlyMine_advance (s : State) (len : Nat) : OnlyMine s (s.advance len) :=
  onlyMine_setMyCell s _ true rfl fun _ hq => by rw [Cell.seqOf_progressed, Cell.seqOf_setSeq_ne _ _ hq]

theorem onlyMine_jumpTo (s : State) (t : Word) : OnlyMine s (s.jumpTo t) :=
  onlyMine_setMyCell s _ true rfl fun _ hq => by rw [Cell.seqOf_progressed, Cell.seqOf_setSeq_ne _ _ hq]

theorem State.me_setProgress (s : State) : (s.setMyCell s.myCell.progressed).me = s.me := by
  unfold State.me State.seqAt
  show ((s.setMyCell _).myCell).seqOf s.role = _
  rw [State.myCell_setMyCell, Cell.seqOf_progressed]
  rfl

theorem onlyMine_progressed (s : State) : OnlyMine s (s.setMyCell s.myCell.progressed) :=
  onlyMine_setMyCell s _ true rfl fun _ _ => Cell.seqOf_progressed ..

/-- Leaving the ready set for a wait other than TAKE's, which also asks for a wake, changes the acting sequencer alone. -/
theorem leftReady_park {s : State} (w : Wait) (hw : ∀ m, w ≠ .tokens m) : LeftReady w s (s.park w) := by
  have key : ∀ t, t = (let s0 := s.setMe { s.me with status := .waiting w, stall := none }
      if w.issued then s0.setMyCell s0.myCell.progressed else s0) → LeftReady w s t := by
    rintro t rfl
    have o := onlyMine_setMe s { s.me with status := .waiting w, stall := none }
    have m := State.me_setMe s { s.me with status := .waiting w, stall := none }
    revert o m
    generalize hz : s.setMe { s.me with status := .waiting w, stall := none } = z
    intro o m
    have ha : z.agenda = s.agenda := by rw [o.rest]
    dsimp only
    split
    · refine ⟨by rw [State.me_setProgress, m], ?_⟩
      rw [State.setMyCell_agenda, ha]
      exact onlyMine_trans o (onlyMine_progressed z)
    · refine ⟨m, ?_⟩
      rw [ha]; exact o
  apply key
  cases w with
  | tokens m => exact absurd rfl (hw m)
  | _ => rfl

theorem State.g_advance (s : State) (len : Nat) (r : Reg) : (s.advance len).g r = s.g r := by
  unfold State.g
  rw [State.me_advance, Seq.goOn_own]
  rfl

theorem State.g_jumpTo (s : State) (t : Word) (r : Reg) : (s.jumpTo t).g r = s.g r := by
  unfold State.g
  rw [State.me_jumpTo]
  rfl

theorem wentOn_advance (s : State) (len : Nat) : WentOn s (s.advance len) len where
  own := by rw [State.me_advance, Seq.goOn_own]; rfl
  next := by rw [State.me_advance]; exact goOn_next s.me _
  status h := by rw [State.me_advance, h]; rfl

theorem regsSame_advance (s : State) (len : Nat) : RegsSame s (s.advance len) := fun r => s.g_advance len r

theorem passed_advance (s : State) (len : Nat) : Passed len s (s.advance len) :=
  ⟨regsSame_advance s len, onlyMine_advance s len, wentOn_advance s len⟩

theorem myCell_setG (s : State) (d : Reg) (v : Word) : (s.setG d v).myCell.stopReq = s.myCell.stopReq := by
  rw [(onlyMine_setG s d v).cell]

/-- A register write followed by going on. -/
theorem wroteReg_setG (s : State) (d : Reg) (v : Word) : WroteReg d v s ((s.setG d v).advance 4) where
  reg := by
    refine ⟨fun h => ?_, rfl, fun r h => ?_⟩ <;> rw [State.g_advance, State.g_setG]
    · simp [h]
    · simp [h]
  frame := onlyMine_trans (onlyMine_setG s d v) (onlyMine_advance _ 4)
  went := by
    have w := wentOn_advance (s.setG d v) 4
    have e : (s.setG d v).me = { s.me with g := (s.setG d v).me.g } := by rw [State.me_setG]; split <;> rfl
    refine ⟨?_, ?_, ?_⟩
    · have := w.own
      rw [e] at this
      simpa using this
    · have := w.next
      rw [e] at this
      exact this
    · intro h
      exact w.status (by rw [myCell_setG]; exact h)

/-- A register write followed by a transfer. -/
theorem jumped_setG (s : State) (d : Reg) (v t : Word) : Jumped d v t s ((s.setG d v).jumpTo t) := by
  have e : (s.setG d v).me = { s.me with g := (s.setG d v).me.g } := by rw [State.me_setG]; split <;> rfl
  refine ⟨?_, onlyMine_trans (onlyMine_setG s d v) (onlyMine_jumpTo _ t), ?_, ?_, ?_⟩
  · refine ⟨fun h => ?_, rfl, fun r h => ?_⟩ <;> rw [State.g_jumpTo, State.g_setG]
    · simp [h]
    · simp [h]
  · rw [State.me_jumpTo, e]; rfl
  · rw [State.me_jumpTo, e]
    show if s.me.hnd = true then (if s.me.hnd = true then _ else _) = _ else LoopsLeft _ (if s.me.hnd = true then _ else _) _
    split
    · rfl
    · exact transferLoops_left _ _
  · intro h
    rw [State.me_jumpTo, myCell_setG, h]; rfl

theorem jumped_none (s : State) (t : Word) : Jumped 0 0 t s (s.jumpTo t) := jumped_setG s 0 0 t

/-! ### Traps -/

theorem takeQueues_zero (q : Role) : takeQueues q 0 = [] := by cases q <;> rfl

theorem putBack_zero (x : Cell) (q : Role) : x.putBack q 0 = x := by
  unfold Cell.putBack; rw [takeQueues_zero]; rfl

theorem endWait_of_ready (s : State) (hs : s.me.status = .ready) (hh : s.me.held = 0) :
    s.endWait s.cell s.role = s.setMe { s.me with held := 0, latch := none, stall := none } := by
  unfold State.endWait
  simp only
  have h1 : ((s.cellAt s.cell).seqOf s.role).held = 0 := hh
  have h2 : ((s.cellAt s.cell).seqOf s.role).status = .ready := hs
  rw [h1, h2, putBack_zero]
  have h3 : s.me = { s.me with status := .ready } := by rw [← hs]
  rw [h3]
  rfl

/-- Taking a precise trap at the acting sequencer, with `e` the address that EPC receives. -/
theorem tookTrap_at (s : State) (h : CanTrap s) (c d : BitVec 8) (l : BitVec 2) (v e : Word) :
    TookTrap c d l v e s (s.takeTrapAt s.cell s.role ⟨c, d, l, v, 0, none, none⟩ e) := by
  unfold State.takeTrapAt
  rw [endWait_of_ready s h.ready h.held]
  have hh := h.held
  have hv : ({ s.me with held := 0, latch := none, stall := none } : Seq).tvec ≠ 0 := h.vector
  have h1 : ({ s.me with held := 0, latch := none, stall := none } : Seq).hnd = false := h.free
  have hw : ∀ p u w x st, ({ s.me with
        pc := p, cause := u, epc := w, eval := x, eprog := 0, status := st, latch := none, stall := none, reports := none :: s.me.reports } : Seq) =
      { ({ s.me with held := 0, latch := none, stall := none } : Seq) with
        pc := p, cause := u, epc := w, eval := x, eprog := 0, status := st, reports := none :: s.me.reports } := by
    intro p u w x st; rw [← hh]
  have ht : s.me.tvec = ({ s.me with held := 0, latch := none, stall := none } : Seq).tvec := rfl
  have hr : s.me.reports = ({ s.me with held := 0, latch := none, stall := none } : Seq).reports := rfl
  generalize ({ s.me with held := 0, latch := none, stall := none } : Seq) = y at *
  have hm : (s.setMe y).seqAt s.cell s.role = y := s.me_setMe y
  have hx := onlyMine_setMe s y
  simp only [hm, h1, hv, Bool.false_eq_true, if_false]
  refine ⟨rfl, ?_, ?_, ?_, fun _ => rfl, ?_, ?_, ?_⟩
  · intro k hk
    rw [State.cellAt_setCell_ne _ _ hk, hx.cells k hk]
  · have := hx.cell
    simp only [State.myCell, State.setMe_cell] at this
    simp only [State.myCell, State.setCell_cell, State.setMe_cell, State.cellAt_setCell]
    rw [this]
    rfl
  · intro q hq
    simp only [State.seqAt, State.cellAt_setCell, Cell.seqOf_progressed, Cell.seqOf_setSeq_ne _ _ hq]
    exact hx.seqs q hq
  · simp [State.me, State.seqAt, causeWord, word]
  · rw [hw, ht, hr]
    simp [State.me, State.seqAt]
  · intro hs
    have h3 : ((s.setMe y).cellAt s.cell).stopReq = false := by
      have := congrArg Cell.stopReq hx.cell
      simp only [State.myCell, State.setMe_cell] at this hs
      rw [this, hs]
    simp [State.me, State.seqAt, h3]

theorem me_dropReads (s : State) (n : Nat) : (s.dropReads n).me = s.me := rfl

/-- Taking a precise trap with its own address in EPC. -/
theorem tookTrap (s : State) (h : CanTrap s) (c d : BitVec 8) (l : BitVec 2) (v : Word) :
    TookTrap c d l v s.me.pc s (s.takeTrap ⟨c, d, l, v, 0, none, none⟩) := by
  have k : CanTrap (s.dropReads (s.cell.val * 4 + (roleIx s.role).val)) := ⟨h.free, h.vector, h.held, h.ready⟩
  have w := tookTrap_at _ k c d l v s.me.pc
  refine ⟨?_, w.cells, w.cell, w.seqs, w.mem, w.cause, w.own, w.status⟩
  have := w.rest
  exact this

/-! ### Which is judged first -/

theorem runInstr_body {roles : List Role} {sync : Sync} {len : Nat} {body : State → IRes} {s : State}
    (hr : roles.contains s.role = true) (hp : s.me.firstFault sync = none) :
    runInstr roles sync len body s = finish len s (body s) := by
  unfold runInstr
  rw [if_pos hr, hp]

theorem firstFault_of_nil {q : Seq} (h : q.pending = []) (y : Sync) : q.firstFault y = none := by
  cases y <;> simp [Seq.firstFault, h]

theorem plainInstr_eq (body : State → IRes) (s : State) : plainInstr body s = finish 4 s (body s) :=
  runInstr_body (allRoles_contains s.role) rfl

/-- An instruction whose whole effect is one register always completes. -/
theorem writeReg_wrote (d : Reg) (v : State → Word) (s : State) : ∃ t, writeReg d v s = .next t ∧ WroteReg d (v s) s t := by
  refine ⟨(s.setG d (v s)).advance 4, ?_, wroteReg_setG s d (v s)⟩
  unfold writeReg
  rw [plainInstr_eq]
  rfl

/-- A jump always completes. -/
theorem plainInstr_jump {body : State → IRes} {s : State} {d : Reg} {v t : Word} (h : body s = .jump (s.setG d v) t) :
    ∃ u, plainInstr body s = .next u ∧ Jumped d v t s u :=
  ⟨_, by rw [plainInstr_eq, h]; rfl, jumped_setG s d v t⟩

/-- An instruction that leaves nothing completes. -/
theorem plainInstr_passed {body : State → IRes} {s : State} (h : body s = .done s) :
    ∃ u, plainInstr body s = .next u ∧ Passed 4 s u :=
  ⟨_, by rw [plainInstr_eq, h]; rfl, passed_advance s 4⟩

/-- An instruction that traps. -/
theorem plainInstr_trap {body : State → IRes} {s : State} {c d : BitVec 8} {v : Word} (k : CanTrap s)
    (h : body s = .trap (trapOf c d v)) : ∃ u, plainInstr body s = .next u ∧ TookTrap c d 0 v s.me.pc s u :=
  ⟨_, by rw [plainInstr_eq, h]; rfl, tookTrap s k c d 0 v⟩

end Sys2Proof.Machine
end

