-- ==== Sys2Proof/Laws/Mem.lean ====
section
/-! SUPPORT. The operations on memory: what each leaves unread elsewhere, what it reads back, and that each keeps the canonical form. -/

namespace Sys2Proof.Machine

/-! ### One byte -/

theorem reset_memory_wf : State.reset.mem.bytes.wf = true := rfl

theorem canonical_writeKey {s : State} (h : Canonical s) (k : Nat) (v : Byte) (m : Nat) : Canonical (s.writeKey k v m) :=
  ⟨smWf_smSet h.bytes, smWf_smSet h.keyTags, h.flags, h.acc, h.keys⟩

theorem readKey_writeKey_same {s : State} (h : Canonical s) (k : Nat) (v : Byte) (m : Nat) : (s.writeKey k v m).readKey k = v :=
  smGet_smSet_same h.bytes

theorem readKey_writeKey_ne {s : State} (h : Canonical s) (v : Byte) (m : Nat) {j k : Nat} (e : j ≠ k) :
    (s.writeKey k v m).readKey j = s.readKey j :=
  smGet_smSet_ne h.bytes e

/-! ### Lines and their keys (R104) -/

/-- A write encrypts its whole line anew. -/
theorem lineOf_writeKey_same {s : State} (h : Canonical s) (v : Byte) (m : Nat) {j k : Nat} (e : j / 64 = k / 64) :
    (s.writeKey k v m).lineOf j = s.lineAfter k m := by
  unfold State.lineOf
  rw [e]
  exact smGet_smSet_same h.keyTags

theorem lineOf_writeKey_ne {s : State} (h : Canonical s) (v : Byte) (m : Nat) {j k : Nat} (e : j / 64 ≠ k / 64) :
    (s.writeKey k v m).lineOf j = s.lineOf j :=
  smGet_smSet_ne h.keyTags e

theorem lineAfter_mat (s : State) (k m : Nat) : (s.lineAfter k m).mat = m := by
  unfold State.lineAfter KeyLine.wrote
  by_cases e : s.tagOf k = m
  · rw [if_pos e]; exact e
  · rw [if_neg e]

theorem tagOf_writeKey_same {s : State} (h : Canonical s) (v : Byte) (m : Nat) {j k : Nat} (e : j / 64 = k / 64) :
    (s.writeKey k v m).tagOf j = m := by
  unfold State.tagOf
  rw [lineOf_writeKey_same h v m e, lineAfter_mat]

theorem tagOf_writeKey_ne {s : State} (h : Canonical s) (v : Byte) (m : Nat) {j k : Nat} (e : j / 64 ≠ k / 64) :
    (s.writeKey k v m).tagOf j = s.tagOf j := by
  unfold State.tagOf
  rw [lineOf_writeKey_ne h v m e]

theorem bit_of_pow {i j : Nat} (hj : j < 64) : (BitVec.ofNat 64 (2 ^ i)).getLsbD j = decide (i = j) := by
  rw [BitVec.getLsbD_ofNat, Nat.testBit_two_pow]
  simp only [hj, decide_true, Bool.true_and]

/-- The byte just written is no longer stale; the other bytes of its line are as they were. -/
theorem wrote_stale (l : KeyLine) (i j : Nat) (hj : j < 64) : (l.wrote i).stale.getLsbD j = (l.stale.getLsbD j && !decide (i = j)) := by
  show (l.stale &&& ~~~(BitVec.ofNat 64 (2 ^ i))).getLsbD j = _
  rw [BitVec.getLsbD_and, BitVec.getLsbD_not, bit_of_pow hj]
  simp only [hj, decide_true, Bool.true_and]

theorem wrote_was (l : KeyLine) (i : Nat) : (l.wrote i).was = if (l.wrote i).stale = 0 then none else l.was := rfl

theorem lineByte_writeKey_same {s : State} (h : Canonical s) (k : Nat) (v : Byte) (m : Nat) : (s.writeKey k v m).lineByte k = v := by
  unfold State.lineByte
  rw [lineOf_writeKey_same h v m rfl]
  have e : (s.lineAfter k m).stale.getLsbD (k % 64) = false := by
    unfold State.lineAfter
    rw [wrote_stale _ _ _ (Nat.mod_lt _ (by decide))]
    simp
  simp only [e, Bool.false_eq_true, if_false]
  exact readKey_writeKey_same h k v m

theorem readUnder_writeKey_same {s : State} (h : Canonical s) (k : Nat) (v : Byte) (m : Nat) : (s.writeKey k v m).readUnder k m = v := by
  unfold State.readUnder
  rw [if_pos (tagOf_writeKey_same h v m rfl), lineByte_writeKey_same h]

/-- A write under the line's own key leaves the other bytes of the line readable as before. -/
theorem lineByte_writeKey_ne {s : State} (h : Canonical s) (v : Byte) (m : Nat) {j k : Nat} (e : j ≠ k)
    (t : j / 64 = k / 64 → s.tagOf k = m) : (s.writeKey k v m).lineByte j = s.lineByte j := by
  have hr := readKey_writeKey_ne h v m e
  unfold State.lineByte
  by_cases l : j / 64 = k / 64
  · have hk : s.lineOf k = s.lineOf j := by unfold State.lineOf; rw [l]
    have ha : s.lineAfter k m = (s.lineOf j).wrote (k % 64) := by
      unfold State.lineAfter
      rw [if_pos (t l), hk]
    have hb : ((s.lineOf j).wrote (k % 64)).stale.getLsbD (j % 64) = (s.lineOf j).stale.getLsbD (j % 64) := by
      rw [wrote_stale _ _ _ (Nat.mod_lt _ (by decide))]
      have : k % 64 ≠ j % 64 := by omega
      simp [this]
    rw [lineOf_writeKey_same h v m l, ha, hb, hr]
    by_cases st : (s.lineOf j).stale.getLsbD (j % 64) = true
    · have nz : ((s.lineOf j).wrote (k % 64)).stale ≠ 0 := by
        intro z
        rw [z] at hb
        simp [st] at hb
      rw [wrote_was, if_neg nz]
      rfl
    · simp [st]
  · rw [lineOf_writeKey_ne h v m l, hr]

theorem readUnder_writeKey_ne {s : State} (h : Canonical s) (v : Byte) {j k : Nat} (e : j ≠ k)
    (t : j / 64 = k / 64 → s.tagOf k = s.tagOf j) (m : Nat) (own : m = s.tagOf j) :
    (s.writeKey k v m).readUnder j m = s.readUnder j m := by
  have ht : (s.writeKey k v m).tagOf j = s.tagOf j := by
    by_cases l : j / 64 = k / 64
    · rw [tagOf_writeKey_same h v m l, own]
    · exact tagOf_writeKey_ne h v m l
  unfold State.readUnder
  rw [ht, if_pos own.symm, if_pos own.symm, lineByte_writeKey_ne h v m e fun l => (t l).trans own.symm]

/-! ### What an operation on memory bytes may change -/

/-- Only the bytes, their tags, and the errors that a write repairs have changed. -/
def MemOnly (s t : State) : Prop :=
  t = { s with mem := { s.mem with
    bytes := t.mem.bytes, keyTags := t.mem.keyTags, bad := t.mem.bad, soft := t.mem.soft, pend := t.mem.pend } }

theorem memOnly_refl (s : State) : MemOnly s s := rfl

theorem memOnly_trans {s t u : State} (h : MemOnly s t) (k : MemOnly t u) : MemOnly s u := by
  unfold MemOnly at *
  rw [k, h]

theorem memOnly_writeKey (s : State) (k : Nat) (v : Byte) (m : Nat) : MemOnly s (s.writeKey k v m) := rfl

theorem memOnly_repair (s : State) (ks : List Nat) : MemOnly s (s.repair ks) := rfl

/-! ### Lists of bytes -/

theorem canonical_repair {s : State} (h : Canonical s) (ks : List Nat) : Canonical (s.repair ks) :=
  ⟨h.bytes, h.keyTags, h.flags, h.acc, h.keys⟩

theorem writeKeys_spec (bs : List (Nat × Byte × Nat)) (s : State) (h : Canonical s) :
    let t := bs.foldl (fun (t : State) x => t.writeKey x.1 x.2.1 x.2.2) s
    Canonical t ∧ (∀ k, k ∉ bs.map (·.1) → t.readKey k = s.readKey k) ∧
      ∀ k, (∀ x ∈ bs, x.1 / 64 ≠ k / 64) → t.lineOf k = s.lineOf k := by
  induction bs generalizing s with
  | nil => exact ⟨h, fun _ _ => rfl, fun _ _ => rfl⟩
  | cons x bs ih =>
    obtain ⟨h1, h2, h3⟩ := ih (s.writeKey x.1 x.2.1 x.2.2) (canonical_writeKey h _ _ _)
    refine ⟨h1, fun k hk => ?_, fun k hk => ?_⟩
    · simp only [List.map_cons, List.mem_cons, not_or] at hk
      exact (h2 k hk.2).trans (readKey_writeKey_ne h _ _ hk.1)
    · exact (h3 k fun y hy => hk y (List.mem_cons_of_mem _ hy)).trans
        (lineOf_writeKey_ne h _ _ (hk x (List.mem_cons_self ..)).symm)

/-- Bytes written under one key: each reads back under it as its last value, whatever the order of the others in its line. -/
theorem writeKeys_keep (bs : List (Nat × Byte × Nat)) (m k : Nat) (v : Byte) (s : State) (h : Canonical s) (t : s.tagOf k = m)
    (b : s.lineByte k = v) (hm : ∀ x ∈ bs, x.2.2 = m) (hk : k ∉ bs.map (·.1)) :
    let t := bs.foldl (fun (t : State) x => t.writeKey x.1 x.2.1 x.2.2) s
    t.tagOf k = m ∧ t.lineByte k = v := by
  induction bs generalizing s with
  | nil => exact ⟨t, b⟩
  | cons x bs ih =>
    simp only [List.map_cons, List.mem_cons, not_or] at hk
    have xm := hm x (List.mem_cons_self ..)
    have line : k / 64 = x.1 / 64 → s.tagOf x.1 = x.2.2 := by
      intro l
      rw [xm, ← t]
      unfold State.tagOf State.lineOf
      rw [l]
    refine ih _ (canonical_writeKey h _ _ _) ?_ ?_ (fun y hy => hm y (List.mem_cons_of_mem _ hy)) hk.2
    · by_cases l : k / 64 = x.1 / 64
      · rw [tagOf_writeKey_same h _ _ l, xm]
      · rw [tagOf_writeKey_ne h _ _ l, t]
    · rw [lineByte_writeKey_ne h _ _ hk.1 line, b]

theorem writeKeys_memOnly (bs : List (Nat × Byte × Nat)) (s : State) :
    MemOnly s (bs.foldl (fun (t : State) x => t.writeKey x.1 x.2.1 x.2.2) s) := by
  induction bs generalizing s with
  | nil => rfl
  | cons x bs ih => exact memOnly_trans (memOnly_writeKey s _ _ _) (ih _)

theorem writeKeys_pend (bs : List (Nat × Byte × Nat)) (s : State) :
    (bs.foldl (fun (t : State) x => t.writeKey x.1 x.2.1 x.2.2) s).mem.pend = s.mem.pend := by
  induction bs generalizing s with
  | nil => rfl
  | cons x bs ih => rw [List.foldl_cons, ih]; rfl

theorem memOnly_writeBytes (s : State) (bs : List (Nat × Byte × Nat)) : MemOnly s (s.writeBytes bs) :=
  memOnly_trans (writeKeys_memOnly bs s) (memOnly_repair _ _)

theorem pend_writeBytes (s : State) (bs : List (Nat × Byte × Nat)) : (s.writeBytes bs).mem.pend = s.mem.pend :=
  writeKeys_pend bs s

theorem canonical_writeBytes {s : State} (h : Canonical s) (bs : List (Nat × Byte × Nat)) : Canonical (s.writeBytes bs) :=
  canonical_repair (writeKeys_spec bs s h).1 _

/-- A byte that is not written is as before. -/
theorem readKey_writeBytes_ne {s : State} (h : Canonical s) {bs : List (Nat × Byte × Nat)} {k : Nat} (hk : k ∉ bs.map (·.1)) :
    (s.writeBytes bs).readKey k = s.readKey k :=
  (writeKeys_spec bs s h).2.1 k hk

/-- A line of which no byte is written keeps its key and what it holds under it. -/
theorem lineOf_writeBytes_ne {s : State} (h : Canonical s) {bs : List (Nat × Byte × Nat)} {k : Nat} (hk : ∀ x ∈ bs, x.1 / 64 ≠ k / 64) :
    (s.writeBytes bs).lineOf k = s.lineOf k :=
  (writeKeys_spec bs s h).2.2 k hk

/-- The last byte written at a key is there. -/
theorem readKey_writeBytes_last {s : State} (h : Canonical s) (l r : List (Nat × Byte × Nat)) (k : Nat) (v : Byte) (m : Nat)
    (hk : k ∉ r.map (·.1)) : (s.writeBytes (l ++ (k, v, m) :: r)).readKey k = v := by
  unfold State.writeBytes
  rw [List.foldl_append, List.foldl_cons]
  have hl := (writeKeys_spec l s h).1
  exact ((writeKeys_spec r _ (canonical_writeKey hl k v m)).2.1 k hk).trans (readKey_writeKey_same hl k v m)

/-- Bytes written under one key material are read back under it. -/
theorem readUnder_writeBytes_last {s : State} (h : Canonical s) (l r : List (Nat × Byte × Nat)) (k : Nat) (v : Byte) (m : Nat)
    (hm : ∀ x ∈ r, x.2.2 = m) (hk : k ∉ r.map (·.1)) : (s.writeBytes (l ++ (k, v, m) :: r)).readUnder k m = v := by
  have hl := (writeKeys_spec l s h).1
  obtain ⟨a, b⟩ := writeKeys_keep r m k v _ (canonical_writeKey hl k v m) (tagOf_writeKey_same hl v m rfl) (lineByte_writeKey_same hl k v m) hm hk
  unfold State.writeBytes
  rw [List.foldl_append, List.foldl_cons]
  exact (if_pos a).trans b

theorem canonical_writePlain {s : State} (h : Canonical s) (k : Nat) (bs : List Byte) : Canonical (s.writePlain k bs) :=
  canonical_writeBytes h _

/-! ### Stores that are performed -/

theorem performFold_spec (ps : List PStore) (s : State) :
    let t := ps.foldl (fun (t : State) p => t.writeBytes p.bytes) s
    MemOnly s t ∧ t.mem.pend = s.mem.pend ∧
      (Canonical s → Canonical t ∧ (∀ k, (∀ p ∈ ps, k ∉ p.bytes.map (·.1)) → t.readKey k = s.readKey k) ∧
        ∀ k, (∀ p ∈ ps, ∀ x ∈ p.bytes, x.1 / 64 ≠ k / 64) → t.lineOf k = s.lineOf k) := by
  induction ps generalizing s with
  | nil => exact ⟨rfl, rfl, fun h => ⟨h, fun _ _ => rfl, fun _ _ => rfl⟩⟩
  | cons p ps ih =>
    obtain ⟨h1, h2, h3⟩ := ih (s.writeBytes p.bytes)
    refine ⟨memOnly_trans (memOnly_writeBytes s _) h1, h2.trans (pend_writeBytes s _), fun h => ?_⟩
    obtain ⟨a, b, c⟩ := h3 (canonical_writeBytes h _)
    refine ⟨a, fun k hk => ?_, fun k hk => ?_⟩
    · exact (b k fun q hq => hk q (List.mem_cons_of_mem _ hq)).trans (readKey_writeBytes_ne h (hk p (List.mem_cons_self ..)))
    · exact (c k fun q hq => hk q (List.mem_cons_of_mem _ hq)).trans (lineOf_writeBytes_ne h (hk p (List.mem_cons_self ..)))

theorem memOnly_performAll (s : State) (ps : List PStore) : MemOnly s (s.performAll ps) :=
  (memOnly_trans (u := s.performAll ps) (t := { s with mem := { s.mem with pend := s.mem.pend.filter fun p => !ps.contains p } }) rfl
    (performFold_spec _ _).1)

theorem pend_performAll (s : State) (ps : List PStore) : (s.performAll ps).mem.pend = s.mem.pend.filter fun p => !ps.contains p :=
  (performFold_spec _ _).2.1

theorem canonical_performAll {s : State} (h : Canonical s) (ps : List PStore) : Canonical (s.performAll ps) :=
  ((performFold_spec _ { s with mem := { s.mem with pend := s.mem.pend.filter fun p => !ps.contains p } }).2.2
    ⟨h.bytes, h.keyTags, h.flags, h.acc, h.keys⟩).1

/-- A byte that no performed store writes reads as before. -/
theorem readKey_performAll {s : State} (h : Canonical s) (ps : List PStore) (k : Nat) (hk : ∀ p ∈ ps, k ∉ p.bytes.map (·.1)) :
    (s.performAll ps).readKey k = s.readKey k :=
  ((performFold_spec _ { s with mem := { s.mem with pend := s.mem.pend.filter fun p => !ps.contains p } }).2.2
    ⟨h.bytes, h.keyTags, h.flags, h.acc, h.keys⟩).2.1 k fun p hp => hk p (by simpa using (List.mem_filter.1 hp).2)

/-- A line that no performed store touches keeps its key. -/
theorem lineOf_performAll {s : State} (h : Canonical s) (ps : List PStore) (k : Nat)
    (hk : ∀ p ∈ ps, ∀ x ∈ p.bytes, x.1 / 64 ≠ k / 64) : (s.performAll ps).lineOf k = s.lineOf k :=
  ((performFold_spec _ { s with mem := { s.mem with pend := s.mem.pend.filter fun p => !ps.contains p } }).2.2
    ⟨h.bytes, h.keyTags, h.flags, h.acc, h.keys⟩).2.2 k fun p hp => hk p (by simpa using (List.mem_filter.1 hp).2)

theorem closeOver_mem {seeds l acc : List PStore} {p : PStore} (h : p ∈ closeOver seeds acc l) : p ∈ acc ∨ p ∈ l := by
  induction l generalizing acc with
  | nil => exact Or.inl h
  | cons q l ih =>
    unfold closeOver at h
    split at h
    · rcases ih h with h | h
      · rcases List.mem_cons.1 h with rfl | h
        · exact Or.inr (List.mem_cons_self ..)
        · exact Or.inl h
      · exact Or.inr (List.mem_cons_of_mem _ h)
    · rcases ih h with h | h
      · exact Or.inl h
      · exact Or.inr (List.mem_cons_of_mem _ h)

/-- Performing some of the acting sequencer's own stores. -/
theorem mineAndStores_performAll (s : State) (ps : List PStore)
    (h : ∀ p ∈ ps, p ∈ s.mem.pend ∧ p.cell = s.cell ∧ p.role = s.role) : MineAndStores s (s.performAll ps) := by
  have m := memOnly_performAll s ps
  unfold MemOnly at m
  have hc : (s.performAll ps).cells = s.cells := by rw [m]
  have hk : (s.performAll ps).cell = s.cell := by rw [m]
  refine ⟨?_, ?_, ?_, ?_, ?_, ?_, ?_, ?_⟩
  · rw [m]
  · intro c _; simp [State.cellAt, hc]
  · simp [State.myCell, State.cellAt, hc, hk]
  · intro q _; simp [State.seqAt, State.cellAt, hc]
  · intro hcan k hk
    refine readKey_performAll hcan ps k fun p hp hm => hk ?_
    obtain ⟨a, b, c⟩ := h p hp
    exact ⟨p, a, b, c, hm⟩
  · intro hcan k hk
    refine lineOf_performAll hcan ps k fun p hp x hx hm => hk x.1 hm ?_
    obtain ⟨a, b, c⟩ := h p hp
    exact ⟨p, a, b, c, List.mem_map_of_mem hx⟩
  · rw [pend_performAll]; exact List.filter_sublist
  · intro p hp hn
    rw [pend_performAll, List.mem_filter]
    refine ⟨hp, ?_⟩
    by_cases e : p ∈ ps
    · exact absurd (h p e).2 hn
    · simp [e]

/-- The acting sequencer's own stores. -/
theorem mem_mine {s : State} {p : PStore} (h : p ∈ s.mem.pend.filter fun p => p.cell == s.cell && p.role == s.role) :
    p ∈ s.mem.pend ∧ p.cell = s.cell ∧ p.role = s.role := by
  obtain ⟨a, b⟩ := List.mem_filter.1 h
  simp only [Bool.and_eq_true, beq_iff_eq] at b
  exact ⟨a, b.1, b.2⟩

theorem mineAndStores_performBefore (s : State) (st : Option (Fin 16)) (keys : List Nat) : MineAndStores s (s.performBefore st keys) := by
  unfold State.performBefore
  refine mineAndStores_performAll s _ fun p hp => ?_
  rcases closeOver_mem hp with hp | hp
  · simp at hp
  · exact mem_mine (List.mem_reverse.1 hp)

theorem mineAndStores_performMine (s : State) : MineAndStores s s.performMine :=
  mineAndStores_performAll s _ fun _ hp => mem_mine hp

/-- After a release no store of the acting sequencer is still to be performed. -/
theorem allPerformed_performMine (s : State) : AllPerformed s s.performMine := by
  intro p hp hm
  have h : p ∈ (s.performAll (s.mem.pend.filter fun p => p.cell == s.cell && p.role == s.role)).mem.pend := hp
  rw [pend_performAll, List.mem_filter] at h
  have e : p ∈ s.mem.pend.filter fun p => p.cell == s.cell && p.role == s.role := List.mem_filter.2 ⟨h.1, by simp [hm.1, hm.2]⟩
  simp [e] at h

theorem mineAndStores_performStreams (s : State) (mask : BitVec 16) : MineAndStores s (s.performStreams mask) := by
  unfold State.performStreams
  refine mineAndStores_performAll s _ fun p hp => ?_
  rcases closeOver_mem hp with hp | hp
  · simp at hp
  · exact mem_mine (List.mem_reverse.1 hp)

theorem mineAndStores_refl (s : State) : MineAndStores s s :=
  ⟨rfl, fun _ _ => rfl, rfl, fun _ _ => rfl, fun _ _ _ => rfl, fun _ _ _ => rfl, List.Sublist.refl _, fun _ h _ => h⟩

/-- What a sequencer's own change adds to stores that it performed. -/
theorem mineAndStores_then {s t u : State} (h : MineAndStores s t) (k : OnlyMine t u) : MineAndStores s u := by
  have hc : t.cell = s.cell := by rw [h.rest]
  have hr : t.role = s.role := by rw [h.rest]
  have hm : u.mem = t.mem := by rw [k.rest]
  refine ⟨?_, ?_, ?_, ?_, ?_, ?_, ?_, ?_⟩
  · rw [k.rest, h.rest]
  · intro c e
    rw [k.cells c (by rw [hc]; exact e), h.cells c e]
  · have := k.cell
    rw [h.cell] at this
    simpa using this
  · intro q e
    have := k.seqs q (by rw [hr]; exact e)
    rw [hc] at this
    rw [this, h.seqs q e]
  · intro a i b
    have := h.mem a i b
    simpa [State.readKey, hm] using this
  · intro a i b
    have := h.lines a i b
    simpa [State.lineOf, hm] using this
  · rw [hm]; exact h.pend
  · rw [hm]; exact h.others

theorem canonical_performSeq {s : State} (h : Canonical s) (c : Fin 256) (q : Role) : Canonical (s.performSeq c q) :=
  canonical_performAll h _

theorem canonical_performMine {s : State} (h : Canonical s) : Canonical s.performMine := canonical_performAll h _

theorem canonical_performBefore {s : State} (h : Canonical s) (st : Option (Fin 16)) (keys : List Nat) :
    Canonical (s.performBefore st keys) := canonical_performAll h _

theorem canonical_performStore {s : State} (h : Canonical s) (p : PStore) : Canonical (s.performStore p) := canonical_performAll h _

theorem canonical_performStreams {s : State} (h : Canonical s) (mask : BitVec 16) : Canonical (s.performStreams mask) :=
  canonical_performAll h _

/-! ### Flags and accumulators -/

theorem canonical_putFlag {s : State} (h : Canonical s) (c : Fin 64) (a : Nat) (v : BitVec 32) : Canonical (s.putFlag c a v) :=
  ⟨h.bytes, h.keyTags, smWf_smSet h.flags, h.acc, h.keys⟩

theorem canonical_setAccRow {s : State} (h : Canonical s) (c : Fin 256) (r : Nat) (v : AccRow) : Canonical (s.setAccRow c r v) :=
  ⟨h.bytes, h.keyTags, h.flags, smWf_smSet h.acc, h.keys⟩

theorem canonical_clearAcc {s : State} (h : Canonical s) (c : Fin 256) (lo n : Nat) : Canonical (s.clearAcc c lo n) :=
  ⟨h.bytes, h.keyTags, h.flags, smWf_filter _ h.acc, h.keys⟩

theorem flagAt_putFlag {s : State} (h : Canonical s) (c : Fin 64) (a : Nat) (v : BitVec 32) : (s.putFlag c a v).flagAt c a = v :=
  smGet_smSet_same h.flags

theorem flagAt_putFlag_ne {s : State} (h : Canonical s) (c d : Fin 64) (a b : Nat) (v : BitVec 32) (e : flagKey d b ≠ flagKey c a) :
    (s.putFlag c a v).flagAt d b = s.flagAt d b :=
  smGet_smSet_ne h.flags e

theorem accRow_setAccRow {s : State} (h : Canonical s) (c : Fin 256) (r : Nat) (v : AccRow) : (s.setAccRow c r v).accRow c r = v :=
  smGet_smSet_same h.acc

theorem accRow_setAccRow_ne {s : State} (h : Canonical s) (c d : Fin 256) (r q : Nat) (v : AccRow) (e : accKey d q ≠ accKey c r) :
    (s.setAccRow c r v).accRow d q = s.accRow d q :=
  smGet_smSet_ne h.acc e

end Sys2Proof.Machine
end

