-- ==== Sys2Proof/Laws/Access.lean ====
section
/-! SUPPORT. What an access leaves alone: the cells, the commands, the Erg, the contexts, the collectives and the host, whether it is served
or has to wait. -/

namespace Sys2Proof.Machine

/-- Only what serves an access has changed: the memories and the caches, the reads of peers and the packets, the numbers given out, and the
events of the errors found. -/
def Accessed (s t : State) : Prop :=
  t = { s with
    agenda := t.agenda, mem := t.mem, fab := t.fab, clk := { s.clk with nextId := t.clk.nextId }, mgmt := t.mgmt }

theorem Accessed.refl (s : State) : Accessed s s := rfl

theorem Accessed.trans {s t u : State} (h : Accessed s t) (k : Accessed t u) : Accessed s u := by
  unfold Accessed at *
  rw [k, h]

theorem MemOnly.accessed {s t : State} (h : MemOnly s t) : Accessed s t := by
  unfold MemOnly at h
  unfold Accessed
  rw [h]

/-- Both outcomes of an access that keep a state leave all else alone. -/
def XR.Serves {α : Type} (s : State) : XR α → Prop
  | .ok t _ | .pend t => Accessed s t
  | .fault _ | .stall _ | .stop _ => True

theorem XR.Serves.bind {α β : Type} {s : State} {x : XR α} {f : State → α → XR β} (h : x.Serves s)
    (k : ∀ t a, x = .ok t a → (f t a).Serves t) : (x.bind f).Serves s := by
  cases x with
  | ok t a =>
    have g := k t a rfl
    show (f t a).Serves s
    revert g
    cases f t a <;> intro g <;> first | trivial | exact Accessed.trans h g
  | pend t => exact h
  | fault _ => trivial
  | stall _ => trivial
  | stop _ => trivial

theorem XR.Serves.after {α : Type} {s t : State} {x : XR α} (h : Accessed s t) (g : x.Serves t) : x.Serves s := by
  cases x <;> first | trivial | exact Accessed.trans h g

/-! ### Errors found by a reader -/

theorem accessed_fold {α : Type} (f : State → α → State) (h : ∀ s x, Accessed s (f s x)) (l : List α) (s : State) :
    Accessed s (l.foldl f s) := by
  induction l generalizing s with
  | nil => exact Accessed.refl s
  | cons x l ih => exact (h s x).trans (ih _)

theorem accessed_countCe (s : State) (i : Fin 45) : Accessed s (s.countCe i) := by
  unfold State.countCe
  dsimp only
  split <;> rfl

theorem accessed_countCeAt (s : State) (g : Nat) : Accessed s (s.countCeAt g) := by
  unfold State.countCeAt
  split
  · exact accessed_countCe s _
  · exact Accessed.refl s

theorem accessed_correct (s : State) (ks : List Nat) : Accessed s (s.correct ks) := by
  unfold State.correct
  dsimp only
  split
  · exact Accessed.refl s
  · refine Accessed.trans ?_ (accessed_fold _ (fun u g => accessed_countCeAt u g) _ _)
    exact rfl

theorem accessed_logUe (s : State) (u : UeInfo) (b : Bool) : Accessed s (s.logUe u b) := by
  unfold State.logUe State.countUe
  dsimp only
  split <;> exact rfl

theorem accessed_logUe? (s : State) (u : Option UeInfo) : Accessed s (s.logUe? u) := by
  unfold State.logUe?
  split
  · exact Accessed.refl s
  · exact accessed_logUe s _ _

theorem accessed_checkSched (s : State) (k n : Nat) : Accessed s (s.checkSched k n) :=
  (accessed_correct s _).trans (accessed_fold _ (fun _ _ => accessed_logUe? _ _) _ _)

theorem accessed_checkArm (s : State) (ctx : Fin 64) (i : Nat) : Accessed s (s.checkArm ctx i) := by
  unfold State.checkArm
  split
  · exact Accessed.refl s
  · dsimp only
    split
    · exact accessed_checkSched s _ _
    · exact (accessed_checkSched s _ _).trans (accessed_checkSched _ _ _)

/-! ### Translation -/

theorem serves_awaitWalk (s : State) (w : Agent) (va : Nat) : (s.awaitWalk w va).Serves s := by
  unfold State.awaitWalk
  split
  · trivial
  · exact Accessed.refl s
  · split <;> exact rfl

theorem serves_leafOf (s : State) (w : Agent) (va : Nat) : (s.leafOf w va).Serves s := by
  unfold State.leafOf
  split
  · exact serves_awaitWalk s w va
  · split
    · exact Accessed.refl s
    · split
      · exact rfl
      · exact serves_awaitWalk s w va

theorem serves_translate (s : State) (w : Agent) (k : AccKind) (va : Nat) : (s.translate w k va).Serves s := by
  unfold State.translate
  dsimp only
  split
  · trivial
  · split
    · split
      · trivial
      · split
        · trivial
        · exact Accessed.refl s
    · refine (serves_leafOf s w va).bind fun t le _ => ?_
      repeat' split
      all_goals first | trivial | exact Accessed.refl t

theorem serves_translateAll (w : Agent) (k : AccKind) (ps : List (Nat × Nat)) (s : State) : (s.translateAll w k ps).Serves s := by
  induction ps generalizing s with
  | nil => exact Accessed.refl s
  | cons p ps ih =>
    exact (serves_translate s w k p.1).bind fun t _ _ => (ih t).bind fun u _ _ => Accessed.refl u

/-- Planning an access. -/
theorem serves_planAccess (s : State) (w : Agent) (k : AccKind) (slot : Option Nat) (va n : Nat) : (s.planAccess w k slot va n).Serves s := by
  unfold State.planAccess
  split
  · trivial
  · split
    · trivial
    · refine (serves_translateAll w k _ s).bind fun t _ _ => ?_
      split
      · trivial
      · exact Accessed.refl t

/-! ### Packets and reads -/

theorem accessed_sendPacket {s t : State} {p : Packet} (h : s.sendPacket p = some t) : Accessed s t := by
  unfold State.sendPacket at h
  dsimp only at h
  split at h
  · injection h with h; subst h; rfl
  · rw [Option.map_eq_some_iff] at h
    obtain ⟨l, _, h⟩ := h
    subst h; rfl

theorem serves_peerRead (s : State) (w : Agent) (rank : Nat) (host cached : Bool) (va n : Nat) :
    (s.peerRead w rank host cached va n).Serves s := by
  unfold State.peerRead
  dsimp only
  split
  · split
    · exact Accessed.refl s
    · trivial
    · unfold State.takeRead State.keepLines
      dsimp only
      split <;> split <;> exact rfl
  · split
    · exact Accessed.refl s
    · split
      · trivial
      · rename_i t h
        have : Accessed s t := Accessed.trans (show Accessed s s.bump from rfl) (accessed_sendPacket h)
        exact this.trans rfl

theorem serves_readSeg (s : State) (w : Agent) (g : Seg) : (s.readSeg w g).Serves s := by
  unfold State.readSeg
  split
  · exact serves_peerRead s w _ _ _ _ _
  · split
    · trivial
    · exact accessed_correct s _

theorem serves_readSegs (w : Agent) (gs : List Seg) (s : State) : (s.readSegs w gs).Serves s := by
  induction gs generalizing s with
  | nil => exact Accessed.refl s
  | cons g gs ih =>
    exact (serves_readSeg s w g).bind fun t _ _ => (ih t).bind fun u _ _ => Accessed.refl u

theorem accessed_performBefore (s : State) (st : Option (Fin 16)) (keys : List Nat) : Accessed s (s.performBefore st keys) :=
  (memOnly_performAll s _).accessed

/-- Reading bytes. -/
theorem serves_readBytes (s : State) (w : Agent) (slot : Option Nat) (va n : Nat) : (s.readBytes w slot va n).Serves s := by
  refine (serves_planAccess s w .read slot va n).bind fun t gs _ => ?_
  have h : Accessed t (match w.seqStream with | some st => t.performBefore (some st) (segKeys gs) | none => t) := by
    split
    · exact accessed_performBefore t _ _
    · exact Accessed.refl t
  exact (serves_readSegs w gs _).after h

/-! ### What a record's payload reads -/

theorem serves_readTable (s : State) (ctx : Fin 64) (reader va : Nat) : (s.readTable ctx reader va).Serves s :=
  (serves_readBytes s _ none va 64).bind fun t _ _ => Accessed.refl t

def Payload.Serves (s : State) : Payload → Prop
  | .tables t _ _ | .pend t => Accessed s t
  | .bounds => True

/-- The payload of a record, read or still waited for. -/
theorem serves_payloadOf (s : State) (ctx : Fin 64) (reader : Nat) (kind : TaskKind) (nbox : Nat) (p : AgImage) :
    (s.payloadOf ctx reader kind nbox p).Serves s := by
  have two : ∀ a b, ((s.readTable ctx reader a).bind fun s1 t => (s1.readTable ctx reader b).bind fun s2 u => .ok s2 (t, u)).Serves s :=
    fun a b => (serves_readTable s ctx reader a).bind fun t _ _ => (serves_readTable t ctx reader b).bind fun u _ _ => Accessed.refl u
  have h := two (imgField p 0 0 64) (imgField p 8 0 64)
  unfold State.payloadOf
  split
  · exact Accessed.refl s
  · split
    · exact Accessed.refl s
    · trivial
  · split
    · exact Accessed.refl s
    · trivial
  all_goals
    dsimp only
    generalize ((s.readTable ctx reader (imgField p 0 0 64)).bind fun s1 t =>
      (s1.readTable ctx reader (imgField p 8 0 64)).bind fun s2 u => XR.ok s2 (t, u)) = r at *
    rcases r with ⟨_, _, _⟩ | _ | _ | _ | _ <;> dsimp only <;> (repeat' split) <;> first | trivial | exact h | exact Accessed.refl s

end Sys2Proof.Machine
end

