-- ==== Sys2Proof/Laws/Exec.lean ====
section
/-! SUPPORT. Which meaning each constructor runs: one equation for each arm of `exec`. -/

namespace Sys2Proof.Machine

@[simp] theorem exec_add {d a b} (s : State) : exec (.add d a b) s = execAdd d a b s := rfl
@[simp] theorem exec_sub {d a b} (s : State) : exec (.sub d a b) s = execSub d a b s := rfl
@[simp] theorem exec_mul {d a b} (s : State) : exec (.mul d a b) s = execMul d a b s := rfl
@[simp] theorem exec_mulh {d a b n} (s : State) : exec (.mulh d a b n) s = execMulh d a b n s := rfl
@[simp] theorem exec_div {d a b n} (s : State) : exec (.div d a b n) s = execDiv d a b n s := rfl
@[simp] theorem exec_rem {d a b n} (s : State) : exec (.rem d a b n) s = execRem d a b n s := rfl
@[simp] theorem exec_and {d a b} (s : State) : exec (.and d a b) s = execAnd d a b s := rfl
@[simp] theorem exec_or {d a b} (s : State) : exec (.or d a b) s = execOr d a b s := rfl
@[simp] theorem exec_xor {d a b} (s : State) : exec (.xor d a b) s = execXor d a b s := rfl
@[simp] theorem exec_shl {d a b} (s : State) : exec (.shl d a b) s = execShl d a b s := rfl
@[simp] theorem exec_shr {d a b} (s : State) : exec (.shr d a b) s = execShr d a b s := rfl
@[simp] theorem exec_sra {d a b} (s : State) : exec (.sra d a b) s = execSra d a b s := rfl
@[simp] theorem exec_min {d a b n} (s : State) : exec (.min d a b n) s = execMin d a b n s := rfl
@[simp] theorem exec_max {d a b n} (s : State) : exec (.max d a b n) s = execMax d a b n s := rfl
@[simp] theorem exec_clz {d a} (s : State) : exec (.clz d a) s = execClz d a s := rfl
@[simp] theorem exec_popc {d a} (s : State) : exec (.popc d a) s = execPopc d a s := rfl
@[simp] theorem exec_sel {d a b c} (s : State) : exec (.sel d a b c) s = execSel d a b c s := rfl
@[simp] theorem exec_cmp {d a b cc} (s : State) : exec (.cmp d a b cc) s = execCmp d a b cc s := rfl
@[simp] theorem exec_addi {d a imm} (s : State) : exec (.addi d a imm) s = execAddi d a imm s := rfl
@[simp] theorem exec_andi {d a imm} (s : State) : exec (.andi d a imm) s = execAndi d a imm s := rfl
@[simp] theorem exec_ori {d a imm} (s : State) : exec (.ori d a imm) s = execOri d a imm s := rfl
@[simp] theorem exec_xori {d a imm} (s : State) : exec (.xori d a imm) s = execXori d a imm s := rfl
@[simp] theorem exec_shli {d a sh} (s : State) : exec (.shli d a sh) s = execShli d a sh s := rfl
@[simp] theorem exec_shri {d a sh} (s : State) : exec (.shri d a sh) s = execShri d a sh s := rfl
@[simp] theorem exec_srai {d a sh} (s : State) : exec (.srai d a sh) s = execSrai d a sh s := rfl
@[simp] theorem exec_cmpi {d a cc imm} (s : State) : exec (.cmpi d a cc imm) s = execCmpi d a cc imm s := rfl
@[simp] theorem exec_movi {d imm} (s : State) : exec (.movi d imm) s = execMovi d imm s := rfl
@[simp] theorem exec_movh {d imm k} (s : State) : exec (.movh d imm k) s = execMovh d imm k s := rfl
@[simp] theorem exec_ext {d a sg pos lm} (s : State) : exec (.ext d a sg pos lm) s = execExt d a sg pos lm s := rfl
@[simp] theorem exec_ins {d a pos lm} (s : State) : exec (.ins d a pos lm) s = execIns d a pos lm s := rfl
@[simp] theorem exec_ld {d a st size off} (s : State) : exec (.ld d a st size off) s = execLd d a st size off s := rfl
@[simp] theorem exec_st {d a st size off} (s : State) : exec (.st d a st size off) s = execSt d a st size off s := rfl
@[simp] theorem exec_amo {d a b st size op} (s : State) : exec (.amo d a b st size op) s = execAmo d a b st size op s := rfl
@[simp] theorem exec_ldAtom {d a st size} (s : State) : exec (.ldAtom d a st size) s = execLdAtom d a st size s := rfl
@[simp] theorem exec_acas {d a b st size} (s : State) : exec (.acas d a b st size) s = execAcas d a b st size s := rfl
@[simp] theorem exec_ared {a b st size op} (s : State) : exec (.ared a b st size op) s = execAred a b st size op s := rfl
@[simp] theorem exec_mcst {g a b st size op} (s : State) : exec (.mcst g a b st size op) s = execMcst g a b st size op s := rfl
@[simp] theorem exec_b {off} (s : State) : exec (.b off) s = execB off s := rfl
@[simp] theorem exec_jal {off} (s : State) : exec (.jal off) s = execJal off s := rfl
@[simp] theorem exec_jr {d a} (s : State) : exec (.jr d a) s = execJr d a s := rfl
@[simp] theorem exec_loop {a len} (s : State) : exec (.loop a len) s = execLoop a len s := rfl
@[simp] theorem exec_beq {a b off} (s : State) : exec (.beq a b off) s = execBeq a b off s := rfl
@[simp] theorem exec_bne {a b off} (s : State) : exec (.bne a b off) s = execBne a b off s := rfl
@[simp] theorem exec_blt {a b off} (s : State) : exec (.blt a b off) s = execBlt a b off s := rfl
@[simp] theorem exec_bge {a b off} (s : State) : exec (.bge a b off) s = execBge a b off s := rfl
@[simp] theorem exec_bltn {a b off} (s : State) : exec (.bltn a b off) s = execBltn a b off s := rfl
@[simp] theorem exec_bgen {a b off} (s : State) : exec (.bgen a b off) s = execBgen a b off s := rfl
@[simp] theorem exec_nop (s : State) : exec (.nop) s = execNop s := rfl
@[simp] theorem exec_endSeq (s : State) : exec (.endSeq) s = execEndSeq s := rfl
@[simp] theorem exec_trap {a} (s : State) : exec (.trap a) s = execTrap a s := rfl
@[simp] theorem exec_eret (s : State) : exec (.eret) s = execEret s := rfl
@[simp] theorem exec_bkpt (s : State) : exec (.bkpt) s = execBkpt s := rfl
@[simp] theorem exec_pause (s : State) : exec (.pause) s = execPause s := rfl
@[simp] theorem exec_fence {mask} (s : State) : exec (.fence mask) s = execFence mask s := rfl
@[simp] theorem exec_rds {d spr} (s : State) : exec (.rds d spr) s = execRds d spr s := rfl
@[simp] theorem exec_wrs {spr d} (s : State) : exec (.wrs spr d) s = execWrs spr d s := rfl
@[simp] theorem exec_take {mask} (s : State) : exec (.take mask) s = execTake mask s := rfl
@[simp] theorem exec_give {mask} (s : State) : exec (.give mask) s = execGive mask s := rfl
@[simp] theorem exec_fwait {d a b cc t} (s : State) : exec (.fwait d a b cc t) s = execFwait d a b cc t s := rfl
@[simp] theorem exec_fset {a b} (s : State) : exec (.fset a b) s = execFset a b s := rfl
@[simp] theorem exec_fadd {d a b} (s : State) : exec (.fadd d a b) s = execFadd d a b s := rfl
@[simp] theorem exec_fget {d a} (s : State) : exec (.fget d a) s = execFget d a s := rfl
@[simp] theorem exec_gset {a b} (s : State) : exec (.gset a b) s = execGset a b s := rfl
@[simp] theorem exec_binit {d a b} (s : State) : exec (.binit d a b) s = execBinit d a b s := rfl
@[simp] theorem exec_barv {d a b t} (s : State) : exec (.barv d a b t) s = execBarv d a b t s := rfl
@[simp] theorem exec_bwait {d a b t} (s : State) : exec (.bwait d a b t) s = execBwait d a b t s := rfl
@[simp] theorem exec_tpost {d a w} (s : State) : exec (.tpost d a w) s = execTpost d a w s := rfl
@[simp] theorem exec_tpostx {a b c w} (s : State) : exec (.tpostx a b c w) s = execTpostx a b c w s := rfl
@[simp] theorem exec_tstat {d a} (s : State) : exec (.tstat d a) s = execTstat d a s := rfl
@[simp] theorem exec_frdef {d a b} (s : State) : exec (.frdef d a b) s = execFrdef d a b s := rfl
@[simp] theorem exec_frfree {d a} (s : State) : exec (.frfree d a) s = execFrfree d a s := rfl
@[simp] theorem exec_larm {d a} (s : State) : exec (.larm d a) s = execLarm d a s := rfl
@[simp] theorem exec_lpatch {d a b} (s : State) : exec (.lpatch d a b) s = execLpatch d a b s := rfl
@[simp] theorem exec_sseal {d} (s : State) : exec (.sseal d) s = execSseal d s := rfl
@[simp] theorem exec_sstat {d a b} (s : State) : exec (.sstat d a b) s = execSstat d a b s := rfl
@[simp] theorem exec_swait {d a t} (s : State) : exec (.swait d a t) s = execSwait d a t s := rfl
@[simp] theorem exec_crule {d a b} (s : State) : exec (.crule d a b) s = execCrule d a b s := rfl
@[simp] theorem exec_iwdef {d a b} (s : State) : exec (.iwdef d a b) s = execIwdef d a b s := rfl
@[simp] theorem exec_vadd {f sat} (s : State) : exec (.vadd f sat) s = execVadd f sat s := rfl
@[simp] theorem exec_vsub {f sat} (s : State) : exec (.vsub f sat) s = execVsub f sat s := rfl
@[simp] theorem exec_vmul {f sat} (s : State) : exec (.vmul f sat) s = execVmul f sat s := rfl
@[simp] theorem exec_vfma {f} (s : State) : exec (.vfma f) s = execVfma f s := rfl
@[simp] theorem exec_vmin {f} (s : State) : exec (.vmin f) s = execVmin f s := rfl
@[simp] theorem exec_vmax {f} (s : State) : exec (.vmax f) s = execVmax f s := rfl
@[simp] theorem exec_vabs {f} (s : State) : exec (.vabs f) s = execVabs f s := rfl
@[simp] theorem exec_vneg {f} (s : State) : exec (.vneg f) s = execVneg f s := rfl
@[simp] theorem exec_vand {f} (s : State) : exec (.vand f) s = execVand f s := rfl
@[simp] theorem exec_vor {f} (s : State) : exec (.vor f) s = execVor f s := rfl
@[simp] theorem exec_vxor {f} (s : State) : exec (.vxor f) s = execVxor f s := rfl
@[simp] theorem exec_vshl {f} (s : State) : exec (.vshl f) s = execVshl f s := rfl
@[simp] theorem exec_vshr {f} (s : State) : exec (.vshr f) s = execVshr f s := rfl
@[simp] theorem exec_vsel {f} (s : State) : exec (.vsel f) s = execVsel f s := rfl
@[simp] theorem exec_vmov {f} (s : State) : exec (.vmov f) s = execVmov f s := rfl
@[simp] theorem exec_vcmp {f cc} (s : State) : exec (.vcmp f cc) s = execVcmp f cc s := rfl
@[simp] theorem exec_vcvt {f tyD sat} (s : State) : exec (.vcvt f tyD sat) s = execVcvt f tyD sat s := rfl
@[simp] theorem exec_vwid {f tyD sat} (s : State) : exec (.vwid f tyD sat) s = execVwid f tyD sat s := rfl
@[simp] theorem exec_vnar {f tyD sat} (s : State) : exec (.vnar f tyD sat) s = execVnar f tyD sat s := rfl
@[simp] theorem exec_vsf {f fn} (s : State) : exec (.vsf f fn) s = execVsf f fn s := rfl
@[simp] theorem exec_vred {f op} (s : State) : exec (.vred f op) s = execVred f op s := rfl
@[simp] theorem exec_vbc {f} (s : State) : exec (.vbc f) s = execVbc f s := rfl
@[simp] theorem exec_viota {f} (s : State) : exec (.viota f) s = execViota f s := rfl
@[simp] theorem exec_vperm {f} (s : State) : exec (.vperm f) s = execVperm f s := rfl
@[simp] theorem exec_vsetl {f} (s : State) : exec (.vsetl f) s = execVsetl f s := rfl
@[simp] theorem exec_vpart {f} (s : State) : exec (.vpart f) s = execVpart f s := rfl
@[simp] theorem exec_mclr {f} (s : State) : exec (.mclr f) s = execMclr f s := rfl
@[simp] theorem exec_mupd {f} (s : State) : exec (.mupd f) s = execMupd f s := rfl
@[simp] theorem exec_mupdw {f} (s : State) : exec (.mupdw f) s = execMupdw f s := rfl
@[simp] theorem exec_mmrg {f} (s : State) : exec (.mmrg f) s = execMmrg f s := rfl
@[simp] theorem exec_mget {f} (s : State) : exec (.mget f) s = execMget f s := rfl
@[simp] theorem exec_mnorm {f} (s : State) : exec (.mnorm f) s = execMnorm f s := rfl
@[simp] theorem exec_mld {f} (s : State) : exec (.mld f) s = execMld f s := rfl
@[simp] theorem exec_mst {f} (s : State) : exec (.mst f) s = execMst f s := rfl
@[simp] theorem exec_azero {a b} (s : State) : exec (.azero a b) s = execAzero a b s := rfl
@[simp] theorem exec_fmtq {a} (s : State) : exec (.fmtq a) s = execFmtq a s := rfl
@[simp] theorem exec_agld {n a imm} (s : State) : exec (.agld n a imm) s = execAgld n a imm s := rfl
@[simp] theorem exec_agst {n a imm} (s : State) : exec (.agst n a imm) s = execAgst n a imm s := rfl
@[simp] theorem exec_carm {d a b} (s : State) : exec (.carm d a b) s = execCarm d a b s := rfl
@[simp] theorem exec_lda {n e} (s : State) : exec (.lda n e) s = execLda n e s := rfl
@[simp] theorem exec_ldb {n b e} (s : State) : exec (.ldb n b e) s = execLdb n b e s := rfl
@[simp] theorem exec_mma {a b buf z k e} (s : State) : exec (.mma a b buf z k e) s = execMma a b buf z k e s := rfl
@[simp] theorem exec_drain {a b agD agM ge mode ty sat lh e} (s : State) : exec (.drain a b agD agM ge mode ty sat lh e) s = execDrain a b agD agM ge mode ty sat lh e s := rfl
@[simp] theorem exec_nmv {d e} (s : State) : exec (.nmv d e) s = execNmv d e s := rfl
@[simp] theorem exec_cpy {agD agS e} (s : State) : exec (.cpy agD agS e) s = execCpy agD agS e s := rfl
@[simp] theorem exec_xpose {agD agS r e} (s : State) : exec (.xpose agD agS r e) s = execXpose agD agS r e s := rfl
@[simp] theorem exec_coll {d e} (s : State) : exec (.coll d e) s = execColl d e s := rfl
@[simp] theorem exec_ldv {q n e} (s : State) : exec (.ldv q n e) s = execLdv q n e s := rfl
@[simp] theorem exec_stv {q n e} (s : State) : exec (.stv q n e) s = execStv q n e s := rfl
@[simp] theorem exec_vgath {q n b ty e} (s : State) : exec (.vgath q n b ty e) s = execVgath q n b ty e s := rfl
@[simp] theorem exec_vscat {q n b ty e} (s : State) : exec (.vscat q n b ty e) s = execVscat q n b ty e s := rfl
@[simp] theorem exec_chain {d e} (s : State) : exec (.chain d e) s = execChain d e s := rfl
@[simp] theorem exec_sequencerWake {c q} (s : State) : exec (.sequencerWake c q) s = execSequencerWake c q s := rfl
@[simp] theorem exec_waitTimeout {c q} (s : State) : exec (.waitTimeout c q) s = execWaitTimeout c q s := rfl
@[simp] theorem exec_bwaitTimeout {c q} (s : State) : exec (.bwaitTimeout c q) s = execBwaitTimeout c q s := rfl
@[simp] theorem exec_pauseEnd {c q} (s : State) : exec (.pauseEnd c q) s = execPauseEnd c q s := rfl
@[simp] theorem exec_engineQueueHead {cmd} (s : State) : exec (.engineQueueHead cmd) s = execEngineQueueHead cmd s := rfl
@[simp] theorem exec_aRingRowDelivery {cmd} (s : State) : exec (.aRingRowDelivery cmd) s = execARingRowDelivery cmd s := rfl
@[simp] theorem exec_ldaComplete {cmd} (s : State) : exec (.ldaComplete cmd) s = execLdaComplete cmd s := rfl
@[simp] theorem exec_ldbComplete {cmd} (s : State) : exec (.ldbComplete cmd) s = execLdbComplete cmd s := rfl
@[simp] theorem exec_mmaComplete {cmd} (s : State) : exec (.mmaComplete cmd) s = execMmaComplete cmd s := rfl
@[simp] theorem exec_drainComplete {cmd} (s : State) : exec (.drainComplete cmd) s = execDrainComplete cmd s := rfl
@[simp] theorem exec_ldvComplete {cmd} (s : State) : exec (.ldvComplete cmd) s = execLdvComplete cmd s := rfl
@[simp] theorem exec_stvComplete {cmd} (s : State) : exec (.stvComplete cmd) s = execStvComplete cmd s := rfl
@[simp] theorem exec_vgathComplete {cmd} (s : State) : exec (.vgathComplete cmd) s = execVgathComplete cmd s := rfl
@[simp] theorem exec_vscatComplete {cmd} (s : State) : exec (.vscatComplete cmd) s = execVscatComplete cmd s := rfl
@[simp] theorem exec_chainComplete {cmd} (s : State) : exec (.chainComplete cmd) s = execChainComplete cmd s := rfl
@[simp] theorem exec_cpyComplete {cmd} (s : State) : exec (.cpyComplete cmd) s = execCpyComplete cmd s := rfl
@[simp] theorem exec_xposeComplete {cmd} (s : State) : exec (.xposeComplete cmd) s = execXposeComplete cmd s := rfl
@[simp] theorem exec_nmvComplete {cmd} (s : State) : exec (.nmvComplete cmd) s = execNmvComplete cmd s := rfl
@[simp] theorem exec_engineCommandFault {cmd} (s : State) : exec (.engineCommandFault cmd) s = execEngineCommandFault cmd s := rfl
@[simp] theorem exec_postSequencerTake (s : State) : exec (.postSequencerTake) s = execPostSequencerTake s := rfl
@[simp] theorem exec_postRetry {post} (s : State) : exec (.postRetry post) s = execPostRetry post s := rfl
@[simp] theorem exec_tpostWaitExpiry {post} (s : State) : exec (.tpostWaitExpiry post) s = execTpostWaitExpiry post s := rfl
@[simp] theorem exec_ergRelease (s : State) : exec (.ergRelease) s = execErgRelease s := rfl
@[simp] theorem exec_readyClassRaise {stamp} (s : State) : exec (.readyClassRaise stamp) s = execReadyClassRaise stamp s := rfl
@[simp] theorem exec_taskRetire {stamp} (s : State) : exec (.taskRetire stamp) s = execTaskRetire stamp s := rfl
@[simp] theorem exec_abortedCellFree {stamp} (s : State) : exec (.abortedCellFree stamp) s = execAbortedCellFree stamp s := rfl
@[simp] theorem exec_remotePostArrival {p} (s : State) : exec (.remotePostArrival p) s = execRemotePostArrival p s := rfl
@[simp] theorem exec_tpostxAnswer {id v} (s : State) : exec (.tpostxAnswer id v) s = execTpostxAnswer id v s := rfl
@[simp] theorem exec_tpostxNoAnswer {id} (s : State) : exec (.tpostxNoAnswer id) s = execTpostxNoAnswer id s := rfl
@[simp] theorem exec_pageWalkComplete {walk} (s : State) : exec (.pageWalkComplete walk) s = execPageWalkComplete walk s := rfl
@[simp] theorem exec_peerReadRequest {p} (s : State) : exec (.peerReadRequest p) s = execPeerReadRequest p s := rfl
@[simp] theorem exec_peerReadResponse {id ans} (s : State) : exec (.peerReadResponse id ans) s = execPeerReadResponse id ans s := rfl
@[simp] theorem exec_remoteReadTimeout {id} (s : State) : exec (.remoteReadTimeout id) s = execRemoteReadTimeout id s := rfl
@[simp] theorem exec_caravanRecordArrival {p} (s : State) : exec (.caravanRecordArrival p) s = execCaravanRecordArrival p s := rfl
@[simp] theorem exec_sealSend {ctx} (s : State) : exec (.sealSend ctx) s = execSealSend ctx s := rfl
@[simp] theorem exec_sealArrival {p} (s : State) : exec (.sealArrival p) s = execSealArrival p s := rfl
@[simp] theorem exec_boundaryRelease {p} (s : State) : exec (.boundaryRelease p) s = execBoundaryRelease p s := rfl
@[simp] theorem exec_boundaryApply {ctx} (s : State) : exec (.boundaryApply ctx) s = execBoundaryApply ctx s := rfl
@[simp] theorem exec_boundaryResultReport {p} (s : State) : exec (.boundaryResultReport p) s = execBoundaryResultReport p s := rfl
@[simp] theorem exec_boundaryRecordTimeout {ctx step} (s : State) : exec (.boundaryRecordTimeout ctx step) s = execBoundaryRecordTimeout ctx step s := rfl
@[simp] theorem exec_inboundStallTimeout {c q} (s : State) : exec (.inboundStallTimeout c q) s = execInboundStallTimeout c q s := rfl
@[simp] theorem exec_packetForward {p} (s : State) : exec (.packetForward p) s = execPacketForward p s := rfl
@[simp] theorem exec_packetResend {seqNo} (s : State) : exec (.packetResend seqNo) s = execPacketResend seqNo s := rfl
@[simp] theorem exec_linkStateChange {link up} (s : State) : exec (.linkStateChange link up) s = execLinkStateChange link up s := rfl
@[simp] theorem exec_podBarrierArrival {p} (s : State) : exec (.podBarrierArrival p) s = execPodBarrierArrival p s := rfl
@[simp] theorem exec_podBarrierPhase {p} (s : State) : exec (.podBarrierPhase p) s = execPodBarrierPhase p s := rfl
@[simp] theorem exec_podBarvTimeout {c q} (s : State) : exec (.podBarvTimeout c q) s = execPodBarvTimeout c q s := rfl
@[simp] theorem exec_proxyAbsenceToken {p} (s : State) : exec (.proxyAbsenceToken p) s = execProxyAbsenceToken p s := rfl
@[simp] theorem exec_absenceTokenWithdrawal {p} (s : State) : exec (.absenceTokenWithdrawal p) s = execAbsenceTokenWithdrawal p s := rfl
@[simp] theorem exec_armedRunStart {die entry} (s : State) : exec (.armedRunStart die entry) s = execArmedRunStart die entry s := rfl
@[simp] theorem exec_collSend {run} (s : State) : exec (.collSend run) s = execCollSend run s := rfl
@[simp] theorem exec_collRecv {run} (s : State) : exec (.collRecv run) s = execCollRecv run s := rfl
@[simp] theorem exec_collRrs {run} (s : State) : exec (.collRrs run) s = execCollRrs run s := rfl
@[simp] theorem exec_collCopy {run} (s : State) : exec (.collCopy run) s = execCollCopy run s := rfl
@[simp] theorem exec_collWait {run} (s : State) : exec (.collWait run) s = execCollWait run s := rfl
@[simp] theorem exec_collSignal {run} (s : State) : exec (.collSignal run) s = execCollSignal run s := rfl
@[simp] theorem exec_collLoop {run} (s : State) : exec (.collLoop run) s = execCollLoop run s := rfl
@[simp] theorem exec_collEnd {run} (s : State) : exec (.collEnd run) s = execCollEnd run s := rfl
@[simp] theorem exec_collDataArrival {p} (s : State) : exec (.collDataArrival p) s = execCollDataArrival p s := rfl
@[simp] theorem exec_collCreditArrival {p} (s : State) : exec (.collCreditArrival p) s = execCollCreditArrival p s := rfl
@[simp] theorem exec_collAckArrival {p} (s : State) : exec (.collAckArrival p) s = execCollAckArrival p s := rfl
@[simp] theorem exec_collAbortArrival {p} (s : State) : exec (.collAbortArrival p) s = execCollAbortArrival p s := rfl
@[simp] theorem exec_collRunTimeout {run} (s : State) : exec (.collRunTimeout run) s = execCollRunTimeout run s := rfl
@[simp] theorem exec_taskWatchdogExpiry {stamp} (s : State) : exec (.taskWatchdogExpiry stamp) s = execTaskWatchdogExpiry stamp s := rfl
@[simp] theorem exec_ladderLevelOverrun {job} (s : State) : exec (.ladderLevelOverrun job) s = execLadderLevelOverrun job s := rfl
@[simp] theorem exec_cairnHeartbeatMissing {n} (s : State) : exec (.cairnHeartbeatMissing n) s = execCairnHeartbeatMissing n s := rfl
@[simp] theorem exec_siroccoHeartbeatMissing (s : State) : exec (.siroccoHeartbeatMissing) s = execSiroccoHeartbeatMissing s := rfl
@[simp] theorem exec_functionLevelReset (s : State) : exec (.functionLevelReset) s = execFunctionLevelReset s := rfl
@[simp] theorem exec_powerUp {record} (s : State) : exec (.powerUp record) s = execPowerUp record s := rfl
@[simp] theorem exec_parityError {site} (s : State) : exec (.parityError site) s = execParityError site s := rfl
@[simp] theorem exec_patrolScrub {granule} (s : State) : exec (.patrolScrub granule) s = execPatrolScrub granule s := rfl
@[simp] theorem exec_powerCapClockStep (s : State) : exec (.powerCapClockStep) s = execPowerCapClockStep s := rfl
@[simp] theorem exec_preemptionRequest {stamp} (s : State) : exec (.preemptionRequest stamp) s = execPreemptionRequest stamp s := rfl
@[simp] theorem exec_preemptionSave {stamp} (s : State) : exec (.preemptionSave stamp) s = execPreemptionSave stamp s := rfl
@[simp] theorem exec_preemptionAbandon {stamp} (s : State) : exec (.preemptionAbandon stamp) s = execPreemptionAbandon stamp s := rfl
@[simp] theorem exec_saveLost {stamp} (s : State) : exec (.saveLost stamp) s = execSaveLost stamp s := rfl
@[simp] theorem exec_shootdownReport {n} (s : State) : exec (.shootdownReport n) s = execShootdownReport n s := rfl
@[simp] theorem exec_shootdownTimeout (s : State) : exec (.shootdownTimeout) s = execShootdownTimeout s := rfl
@[simp] theorem exec_launch {q} (s : State) : exec (.launch q) s = execLaunch q s := rfl
@[simp] theorem exec_framedef {q} (s : State) : exec (.framedef q) s = execFramedef q s := rfl
@[simp] theorem exec_framefree {q} (s : State) : exec (.framefree q) s = execFramefree q s := rfl
@[simp] theorem exec_ctxcfg {q} (s : State) : exec (.ctxcfg q) s = execCtxcfg q s := rfl
@[simp] theorem exec_shootdown {q} (s : State) : exec (.shootdown q) s = execShootdown q s := rfl
@[simp] theorem exec_keyinst {q} (s : State) : exec (.keyinst q) s = execKeyinst q s := rfl
@[simp] theorem exec_ctxout {q} (s : State) : exec (.ctxout q) s = execCtxout q s := rfl
@[simp] theorem exec_ctxin {q} (s : State) : exec (.ctxin q) s = execCtxin q s := rfl
@[simp] theorem exec_preempt {q} (s : State) : exec (.preempt q) s = execPreempt q s := rfl
@[simp] theorem exec_hostNop {q} (s : State) : exec (.hostNop q) s = execHostNop q s := rfl
@[simp] theorem exec_abort {q} (s : State) : exec (.abort q) s = execAbort q s := rfl
@[simp] theorem exec_podjoin {q} (s : State) : exec (.podjoin q) s = execPodjoin q s := rfl
@[simp] theorem exec_podremove {q} (s : State) : exec (.podremove q) s = execPodremove q s := rfl
@[simp] theorem exec_podleave {q} (s : State) : exec (.podleave q) s = execPodleave q s := rfl
@[simp] theorem exec_doorbell {q v} (s : State) : exec (.doorbell q v) s = execDoorbell q v s := rfl
@[simp] theorem exec_trigger {q v} (s : State) : exec (.trigger q v) s = execTrigger q v s := rfl
@[simp] theorem exec_qctl {q v} (s : State) : exec (.qctl q v) s = execQctl q v s := rfl
@[simp] theorem exec_restart {v} (s : State) : exec (.restart v) s = execRestart v s := rfl
@[simp] theorem exec_pcap {v} (s : State) : exec (.pcap v) s = execPcap v s := rfl
@[simp] theorem exec_eccCounterRead {id} (s : State) : exec (.eccCounterRead id) s = execEccCounterRead id s := rfl
@[simp] theorem exec_lsend {core w} (s : State) : exec (.lsend core w) s = execLsend core w s := rfl
@[simp] theorem exec_lrecv {core} (s : State) : exec (.lrecv core) s = execLrecv core s := rfl
@[simp] theorem exec_registerWrite {off bytes v} (s : State) : exec (.registerWrite off bytes v) s = execRegisterWrite off bytes v s := rfl
@[simp] theorem exec_verifyComplete (s : State) : exec (.verifyComplete) s = execVerifyComplete s := rfl
@[simp] theorem exec_activateFirmware (s : State) : exec (.activateFirmware) s = execActivateFirmware s := rfl
@[simp] theorem exec_handoverHeartbeatTimeout (s : State) : exec (.handoverHeartbeatTimeout) s = execHandoverHeartbeatTimeout s := rfl
@[simp] theorem exec_getVersion {req} (s : State) : exec (.getVersion req) s = execGetVersion req s := rfl
@[simp] theorem exec_getCapabilities {req} (s : State) : exec (.getCapabilities req) s = execGetCapabilities req s := rfl
@[simp] theorem exec_negotiateAlgorithms {req} (s : State) : exec (.negotiateAlgorithms req) s = execNegotiateAlgorithms req s := rfl
@[simp] theorem exec_getDigests {req} (s : State) : exec (.getDigests req) s = execGetDigests req s := rfl
@[simp] theorem exec_getCertificate {req} (s : State) : exec (.getCertificate req) s = execGetCertificate req s := rfl
@[simp] theorem exec_challenge {req} (s : State) : exec (.challenge req) s = execChallenge req s := rfl
@[simp] theorem exec_getMeasurements {index} (s : State) : exec (.getMeasurements index) s = execGetMeasurements index s := rfl
@[simp] theorem exec_sandglassRead {first count} (s : State) : exec (.sandglassRead first count) s = execSandglassRead first count s := rfl
@[simp] theorem exec_accessPerformed {id} (s : State) : exec (.accessPerformed id) s = execAccessPerformed id s := rfl
@[simp] theorem exec_rowUpdate {cmd} (s : State) : exec (.rowUpdate cmd) s = execRowUpdate cmd s := rfl
@[simp] theorem exec_entryFilled {cmd} (s : State) : exec (.entryFilled cmd) s = execEntryFilled cmd s := rfl
@[simp] theorem exec_illegalEncoding {detail eval} (s : State) : exec (.illegalEncoding detail eval) s = execIllegalEncoding detail eval s := rfl
@[simp] theorem exec_imageStaged {component image} (s : State) : exec (.imageStaged component image) s = execImageStaged component image s := rfl
@[simp] theorem exec_handOverComplete (s : State) : exec (.handOverComplete) s = execHandOverComplete s := rfl

end Sys2Proof.Machine
end

