-- ==== Sys2Proof/Laws/Tokens.lean ====
section
/-! SUPPORT. Token queues: which queue a mask names, and what takes and gives do to every count. -/

namespace Sys2Proof.Machine

theorem mem_maskRoles {q r : Role} {mask : BitVec 3} : r ∈ maskRoles q mask ↔ MaskNames q mask r := by
  unfold maskRoles MaskNames
  cases q <;> cases r <;> revert mask <;> decide

theorem MaskNames.ne {q r : Role} {mask : BitVec 3} (h : MaskNames q mask r) : r ≠ q := by
  obtain ⟨i, h1, h2⟩ := h
  clear h2
  revert i
  cases q <;> cases r <;> decide

theorem tokenQueue_inj {a b c d : Role} (h : a ≠ b) (k : c ≠ d) (e : tokenQueue a b = tokenQueue c d) : a = c ∧ b = d := by
  revert h k e
  cases a <;> cases b <;> cases c <;> cases d <;> decide

theorem takeQueues_nodup (q : Role) (mask : BitVec 3) : (takeQueues q mask).Nodup := by
  cases q <;> revert mask <;> decide

theorem giveQueues_nodup (q : Role) (mask : BitVec 3) : (giveQueues q mask).Nodup := by
  cases q <;> revert mask <;> decide

theorem mem_takeQueues (q a b : Role) (mask : BitVec 3) (h : a ≠ b) : tokenQueue a b ∈ takeQueues q mask ↔ b = q ∧ MaskNames q mask a := by
  unfold takeQueues
  rw [List.mem_map]
  constructor
  · rintro ⟨r, hr, e⟩
    have m := mem_maskRoles.1 hr
    obtain ⟨rfl, rfl⟩ := tokenQueue_inj m.ne h e
    exact ⟨rfl, m⟩
  · rintro ⟨rfl, m⟩
    exact ⟨a, mem_maskRoles.2 m, rfl⟩

theorem mem_giveQueues (q a b : Role) (mask : BitVec 3) (h : a ≠ b) : tokenQueue a b ∈ giveQueues q mask ↔ a = q ∧ MaskNames q mask b := by
  unfold giveQueues
  rw [List.mem_map]
  constructor
  · rintro ⟨r, hr, e⟩
    have m := mem_maskRoles.1 hr
    obtain ⟨rfl, rfl⟩ := tokenQueue_inj m.ne.symm h e
    exact ⟨rfl, m⟩
  · rintro ⟨rfl, m⟩
    exact ⟨b, mem_maskRoles.2 m, rfl⟩

theorem bumpCounts_get (v : Vector Nat 12) (qs : List (Fin 12)) (up down : Nat) (i : Fin 12) (h : qs.Nodup) :
    (bumpCounts v qs up down)[i] = if i ∈ qs then v[i] + up - down else v[i] := by
  unfold bumpCounts
  induction qs generalizing v with
  | nil => simp
  | cons q qs ih =>
    rw [List.nodup_cons] at h
    rw [List.foldl_cons, ih _ h.2]
    by_cases e : i = q
    · subst e; simp [h.1]
    · have e1 : q.val ≠ i.val := fun x => e (Fin.ext x.symm)
      have e2 : (v.set q (v[q] + up - down))[i] = v[i] := by
        show (v.set q.val _)[i.val] = v[i.val]
        rw [Vector.getElem_set_ne _ _ e1]
      rw [e2]
      simp [e]

/-- Every queue of the mask holds a token. -/
theorem canTake_iff (x : Cell) (q : Role) (mask : BitVec 3) :
    x.canTake q mask = true ↔ ∀ r, MaskNames q mask r → 1 ≤ x.tokens[tokenQueue r q] := by
  unfold Cell.canTake takeQueues
  simp only [List.all_map, List.all_eq_true, Function.comp, decide_eq_true_eq, mem_maskRoles]

theorem overflows_iff (x : Cell) (q : Role) (mask : BitVec 3) :
    x.overflows q mask = true ↔ ∃ r, MaskNames q mask r ∧ 255 ≤ x.tokens[tokenQueue q r] + x.reserved[tokenQueue q r] := by
  unfold Cell.overflows giveQueues
  simp only [List.any_map, List.any_eq_true, Function.comp, decide_eq_true_eq, mem_maskRoles]

end Sys2Proof.Machine
end

