-- ==== Sys2Proof/Laws/Flags.lean ====
section
/-! SUPPORT. Writing a flag: the word it leaves, and what reaching its waiters and the commands held on it can change. -/

namespace Sys2Proof.Machine

/-! ### What a flag's write leaves alone -/

/-- Of the sequencers only the statuses have changed, and the memories, the Erg, the contexts and the clock have not changed at all, except
for the reads and walks of a command that was discarded, the run that a COLL command started and the event of the Sandglass. -/
structure Woken (s t : State) : Prop where
  seqs : ∀ c q, t.seqAt c q = { s.seqAt c q with status := (t.seqAt c q).status }
  stop : ∀ c, (t.cellAt c).stopReq = (s.cellAt c).stopReq
  ready : ∀ c q, (s.seqAt c q).status = .ready → t.seqAt c q = s.seqAt c q
  rest : t = { s with
    mem := { s.mem with walks := t.mem.walks }, cells := t.cells, cmds := t.cmds, col := { s.col with runs := t.col.runs }
    clk := { s.clk with nextId := t.clk.nextId }, fab := { s.fab with reads := t.fab.reads }
    mgmt := { s.mgmt with sand := t.mgmt.sand, sandCount := t.mgmt.sandCount, irq := t.mgmt.irq } }

theorem Woken.refl (s : State) : Woken s s := ⟨fun _ _ => rfl, fun _ => rfl, fun _ _ _ => rfl, rfl⟩

theorem Woken.trans {s t u : State} (h : Woken s t) (k : Woken t u) : Woken s u where
  seqs c q := by
    rw [k.seqs c q, h.seqs c q]
  stop c := (k.stop c).trans (h.stop c)
  ready c q e := by
    have := h.ready c q e
    exact (k.ready c q (by rw [this]; exact e)).trans this
  rest := by
    have a := k.rest
    rw [h.rest] at a
    exact a

theorem Woken.mk_rest {s t : State} (hc : t.cells = s.cells)
    (rest : t = { s with
      mem := { s.mem with walks := t.mem.walks }, cells := t.cells, cmds := t.cmds, col := { s.col with runs := t.col.runs }
      clk := { s.clk with nextId := t.clk.nextId }, fab := { s.fab with reads := t.fab.reads }
      mgmt := { s.mgmt with sand := t.mgmt.sand, sandCount := t.mgmt.sandCount, irq := t.mgmt.irq } }) : Woken s t :=
  ⟨fun c q => by simp [State.seqAt, State.cellAt, hc], fun c => by simp [State.cellAt, hc], fun c q _ => by simp [State.seqAt, State.cellAt, hc], rest⟩

/-- Changing a cell but none of its sequencers. -/
theorem woken_setCell (s : State) (c : Fin 256) (x : Cell) (h1 : x.seqs = (s.cellAt c).seqs) (h2 : x.stopReq = (s.cellAt c).stopReq) :
    Woken s (s.setCell c x) where
  seqs d q := by
    by_cases e : d = c
    · subst e
      simp [State.seqAt, Cell.seqOf, h1]
    · rw [State.seqAt, State.cellAt_setCell_ne s x e]; rfl
  stop d := by
    by_cases e : d = c
    · subst e; simp [h2]
    · rw [State.cellAt_setCell_ne s x e]
  ready d q _ := by
    by_cases e : d = c
    · subst e
      simp [State.seqAt, Cell.seqOf, h1]
    · rw [State.seqAt, State.cellAt_setCell_ne s x e]; rfl
  rest := rfl

@[simp] theorem vmap_getElem {α β : Type} {n : Nat} (f : α → β) (v : Vector α n) (i : Nat) (h : i < n) : (vmap f v)[i] = f v[i] := by
  simp [vmap]

@[simp] theorem vmap_get_fin {α β : Type} {n : Nat} (f : α → β) (v : Vector α n) (i : Fin n) : (vmap f v)[i] = f v[i] :=
  vmap_getElem f v i.val i.isLt

theorem seesFlag_own (y : Seq) (a : Nat) (v : BitVec 32) : y.seesFlag a v = { y with status := (y.seesFlag a v).status } := by
  unfold Seq.seesFlag
  split
  · split <;> rfl
  · split <;> rfl
  · rfl

theorem woken_wakeFlag (s : State) (ctx : Fin 64) (a : Nat) (v : BitVec 32) : Woken s (s.wakeFlag ctx a v) where
  seqs c q := by
    simp only [State.seqAt, State.cellAt, State.wakeFlag, vmap_get_fin]
    split
    · simp only [Cell.seqOf, vmap_get_fin]
      exact seesFlag_own _ _ _
    · rfl
  stop c := by
    simp only [State.cellAt, State.wakeFlag, vmap_get_fin]
    split <;> rfl
  ready c q e := by
    simp only [State.seqAt, State.cellAt] at e
    simp only [State.seqAt, State.cellAt, State.wakeFlag, vmap_get_fin]
    split
    · simp only [Cell.seqOf, vmap_get_fin]
      simp only [Cell.seqOf] at e
      unfold Seq.seesFlag
      rw [e]
    · rfl
  rest := rfl

theorem woken_cmdGives (s : State) (m : Cmd) : Woken s (s.cmdGives m) := by
  unfold State.cmdGives
  split
  · exact woken_setCell s _ _ rfl rfl
  · exact Woken.refl s

theorem woken_dropCmd (s : State) (id n : Nat) : Woken s ((s.dropCmd id).dropReads n) := Woken.mk_rest rfl rfl

theorem woken_sweepRing (s : State) (c : Fin 256) : Woken s (s.sweepRing c) := woken_setCell s _ _ rfl rfl

theorem woken_zeroFill (s : State) (c : Fin 256) (ids : List Nat) : Woken s (s.setCell c ((s.cellAt c).zeroFill ids)) :=
  woken_setCell s c _ rfl rfl

theorem woken_discardCmd (s : State) (m : Cmd) : Woken s (s.discardCmd m) := by
  unfold State.discardCmd
  have h := woken_dropCmd s m.id (4096 + m.id)
  dsimp only
  split
  · exact (h.trans (woken_zeroFill _ _ _)).trans (woken_cmdGives _ m)
  · exact (h.trans (woken_zeroFill _ _ _)).trans (woken_cmdGives _ m)
  · exact (h.trans (woken_sweepRing _ _)).trans (woken_cmdGives _ m)
  · exact h.trans (woken_cmdGives _ m)

theorem woken_setCmd (s : State) (m : Cmd) : Woken s (s.setCmd m) := Woken.mk_rest rfl rfl

theorem woken_newRun (s : State) (m : Cmd) (d : AgImage) : Woken s (s.newRun m d) := Woken.mk_rest rfl rfl

theorem woken_startCmd (s : State) (m : Cmd) : Woken s (s.startCmd m) := by
  unfold State.startCmd
  split
  · split <;> exact woken_setCmd s _
  · split
    · exact woken_setCmd s _
    · exact (woken_setCmd s _).trans (woken_newRun _ _ _)
  · exact woken_setCmd s _

theorem woken_sandglass (s : State) (a b d : Nat) (p : Word) : Woken s (s.sandglass a b d p) := Woken.mk_rest rfl rfl

theorem woken_resolveGuard (s : State) (m : Cmd) (v : BitVec 32) : Woken s (s.resolveGuard m v) := by
  unfold State.resolveGuard
  dsimp only
  split
  · exact Woken.refl s
  · split
    · exact woken_startCmd s m
    · split
      · exact woken_discardCmd s m
      · split
        · exact (woken_discardCmd s m).trans (woken_sandglass _ _ _ _ _)
        · exact woken_discardCmd s m

theorem woken_fold {α : Type} (f : State → α → State) (h : ∀ s x, Woken s (f s x)) (l : List α) (s : State) : Woken s (l.foldl f s) := by
  induction l generalizing s with
  | nil => exact Woken.refl s
  | cons x l ih => exact (h s x).trans (ih _)

theorem woken_resolveGuards (s : State) (ctx : Fin 64) (a : Nat) (v : BitVec 32) : Woken s (s.resolveGuards ctx a v) :=
  woken_fold _ (fun s m => woken_resolveGuard s m v) _ s

/-! ### The word -/

theorem woken_showFlag (s : State) (ctx : Fin 64) (a : Nat) (v : BitVec 32) : Woken (s.putFlag ctx a v) (s.showFlag ctx a v) :=
  (woken_wakeFlag _ ctx a v).trans (woken_resolveGuards _ ctx a v)

theorem flags_showFlag (s : State) (ctx : Fin 64) (a : Nat) (v : BitVec 32) :
    (s.showFlag ctx a v).mem.flags = smSet 0 (flagKey ctx a) v s.mem.flags := by
  rw [(woken_showFlag s ctx a v).rest]; rfl

theorem canonical_showFlag {s : State} (h : Canonical s) (ctx : Fin 64) (a : Nat) (v : BitVec 32) : Canonical (s.showFlag ctx a v) := by
  have k := canonical_putFlag h ctx a v
  rw [(woken_showFlag s ctx a v).rest]
  exact ⟨k.bytes, k.keyTags, k.flags, k.acc, k.keys⟩

theorem canonical_writeFlag {s : State} (h : Canonical s) (ctx : Fin 64) (a : Nat) (v : BitVec 32) : Canonical (s.writeFlag ctx a v) :=
  canonical_showFlag h _ _ _

theorem canonical_addFlag {s : State} (h : Canonical s) (ctx : Fin 64) (a : Nat) (v : BitVec 32) : Canonical (s.addFlag ctx a v) :=
  canonical_showFlag h _ _ _

/-- The flag that is shown reads the value. -/
theorem flagAt_showFlag {s : State} (h : Canonical s) (ctx : Fin 64) (a : Nat) (v : BitVec 32) : (s.showFlag ctx a v).flagAt ctx a = v := by
  unfold State.flagAt
  rw [flags_showFlag]
  exact smGet_smSet_same h.flags

/-- Every other flag reads as before. -/
theorem flagAt_showFlag_ne {s : State} (h : Canonical s) {ctx d : Fin 64} {a b : Nat} (v : BitVec 32) (e : flagKey d b ≠ flagKey ctx a) :
    (s.showFlag ctx a v).flagAt d b = s.flagAt d b := by
  unfold State.flagAt
  rw [flags_showFlag]
  exact smGet_smSet_ne h.flags e

/-- A word that is no second word of a barrier object receives the value that is written (R205). -/
theorem maintained_plain {s : State} {ctx : Fin 64} {a : Nat} (v : BitVec 32) (h : ¬ (s.isObj ctx a = true ∧ flagKey ctx a % 4 = 1)) :
    s.maintained ctx a v = v := by
  unfold State.maintained
  rw [if_neg]
  simpa using h

end Sys2Proof.Machine
end

