-- ==== Sys2Proof/Laws/PerInstr.lean ====
section
/-! SUPPORT. Per instruction: its words have 32 bits each, a short form has no second word, and what has no words is not well-formed. -/

namespace Sys2Proof.Laws

open Sys2Proof

theorem b2n_le (x : Bool) : b2n x ≤ 1 := by cases x <;> decide

theorem condCode_le (c : Cond) : condCode c ≤ 5 := by cases c <;> decide

theorem atOpCode_le (c : AtOp) : atOpCode c ≤ 11 := by cases c <;> decide

theorem ldSizeCode_le (c : LdSize) : ldSizeCode c ≤ 6 := by cases c <;> decide

theorem sfFnCode_le (c : SfFn) : sfFnCode c ≤ 8 := by cases c <;> decide

theorem redOpCode_le (c : RedOp) : redOpCode c ≤ 5 := by cases c <;> decide

theorem drainModeCode_le (c : DrainMode) : drainModeCode c ≤ 2 := by cases c <;> decide

theorem sprIndex_lt (x : Spr) : sprIndex x < 2 ^ 10 := by
  cases x
  case arg i => exact Nat.lt_trans (Nat.add_lt_add_left i.isLt 8) (by decide)
  case fbase i => exact Nat.lt_trans (Nat.add_lt_add_left i.isLt 16) (by decide)
  all_goals decide

theorem encE_lt (e : EngWord) (x : Nat) (h : x < 2 ^ 14) : encE e x < 2 ^ 32 := by
  unfold encE
  omega

/-- The words of an instruction fit: 32 bits each, and no second word for a short form; what has no words is not well-formed. -/
def Words.Statement (i : Instr) : Prop :=
  match encode i with
  | some (w, e) => w < 2 ^ 32 ∧ e < 2 ^ 32 ∧ (isLong w = false → e = 0)
  | none => i.wf = false

theorem words_short {w : Nat} (h : w < 2 ^ 32) : w < 2 ^ 32 ∧ (0 : Nat) < 2 ^ 32 ∧ (isLong w = false → (0 : Nat) = 0) :=
  ⟨h, by decide, fun _ => rfl⟩

theorem words_long {w e : Nat} (h : w < 2 ^ 32) (l : 0x30 * 2 ^ 26 ≤ w) (u : w < 0x3D * 2 ^ 26) (k : e < 2 ^ 32) :
    w < 2 ^ 32 ∧ e < 2 ^ 32 ∧ (isLong w = false → e = 0) := by
  refine ⟨h, k, fun n => ?_⟩
  have a : 0x30 ≤ fld w 26 6 := by unfold fld; omega
  have b : fld w 26 6 ≤ 0x3C := by unfold fld; omega
  have t : isLong w = true := by simp [isLong, a, b]
  rw [t] at n
  cases n

theorem Words.add {d a b} : Words.Statement (.add d a b) := by
  refine words_short ?_
  simp only [encR]
  omega

theorem Words.sub {d a b} : Words.Statement (.sub d a b) := by
  refine words_short ?_
  simp only [encR]
  omega

theorem Words.mul {d a b} : Words.Statement (.mul d a b) := by
  refine words_short ?_
  simp only [encR]
  omega

theorem Words.mulh {d a b n} : Words.Statement (.mulh d a b n) := by
  refine words_short ?_
  have := b2n_le n
  simp only [encR]
  omega

theorem Words.div {d a b n} : Words.Statement (.div d a b n) := by
  refine words_short ?_
  have := b2n_le n
  simp only [encR]
  omega

theorem Words.rem {d a b n} : Words.Statement (.rem d a b n) := by
  refine words_short ?_
  have := b2n_le n
  simp only [encR]
  omega

theorem Words.and {d a b} : Words.Statement (.and d a b) := by
  refine words_short ?_
  simp only [encR]
  omega

theorem Words.or {d a b} : Words.Statement (.or d a b) := by
  refine words_short ?_
  simp only [encR]
  omega

theorem Words.xor {d a b} : Words.Statement (.xor d a b) := by
  refine words_short ?_
  simp only [encR]
  omega

theorem Words.shl {d a b} : Words.Statement (.shl d a b) := by
  refine words_short ?_
  simp only [encR]
  omega

theorem Words.shr {d a b} : Words.Statement (.shr d a b) := by
  refine words_short ?_
  simp only [encR]
  omega

theorem Words.sra {d a b} : Words.Statement (.sra d a b) := by
  refine words_short ?_
  simp only [encR]
  omega

theorem Words.min {d a b n} : Words.Statement (.min d a b n) := by
  refine words_short ?_
  have := b2n_le n
  simp only [encR]
  omega

theorem Words.max {d a b n} : Words.Statement (.max d a b n) := by
  refine words_short ?_
  have := b2n_le n
  simp only [encR]
  omega

theorem Words.clz {d a} : Words.Statement (.clz d a) := by
  refine words_short ?_
  simp only [encR]
  omega

theorem Words.popc {d a} : Words.Statement (.popc d a) := by
  refine words_short ?_
  simp only [encR]
  omega

theorem Words.sel {d a b c} : Words.Statement (.sel d a b c) := by
  refine words_short ?_
  simp only [encR]
  omega

theorem Words.cmp {d a b cc} : Words.Statement (.cmp d a b cc) := by
  refine words_short ?_
  have := condCode_le cc
  simp only [encR]
  omega

theorem Words.addi {d a imm} : Words.Statement (.addi d a imm) := by
  refine words_short ?_
  simp only [encI]
  omega

theorem Words.andi {d a imm} : Words.Statement (.andi d a imm) := by
  refine words_short ?_
  simp only [encI]
  omega

theorem Words.ori {d a imm} : Words.Statement (.ori d a imm) := by
  refine words_short ?_
  simp only [encI]
  omega

theorem Words.xori {d a imm} : Words.Statement (.xori d a imm) := by
  refine words_short ?_
  simp only [encI]
  omega

theorem Words.shli {d a sh} : Words.Statement (.shli d a sh) := by
  refine words_short ?_
  simp only [encI]
  omega

theorem Words.shri {d a sh} : Words.Statement (.shri d a sh) := by
  refine words_short ?_
  simp only [encI]
  omega

theorem Words.srai {d a sh} : Words.Statement (.srai d a sh) := by
  refine words_short ?_
  simp only [encI]
  omega

theorem Words.cmpi {d a cc imm} : Words.Statement (.cmpi d a cc imm) := by
  refine words_short ?_
  have := condCode_le cc
  simp only [encI]
  omega

theorem Words.movi {d imm} : Words.Statement (.movi d imm) := by
  refine words_short ?_
  simp only [encI]
  omega

theorem Words.movh {d imm k} : Words.Statement (.movh d imm k) := by
  refine words_short ?_
  simp only [encI]
  omega

theorem Words.ext {d a s pos lm} : Words.Statement (.ext d a s pos lm) := by
  refine words_short ?_
  have := b2n_le s
  simp only [encI]
  omega

theorem Words.ins {d a pos lm} : Words.Statement (.ins d a pos lm) := by
  refine words_short ?_
  simp only [encI]
  omega

theorem Words.ld {d a st size off} : Words.Statement (.ld d a st size off) := by
  refine words_short ?_
  have := ldSizeCode_le size
  simp only [encI]
  omega

theorem Words.st {d a st size off} : Words.Statement (.st d a st size off) := by
  refine words_short ?_
  simp only [encI]
  omega

theorem Words.amo {d a b st size op} : Words.Statement (.amo d a b st size op) := by
  refine words_short ?_
  have := atOpCode_le op
  simp only [encMA]
  omega

theorem Words.ldAtom {d a st size} : Words.Statement (.ldAtom d a st size) := by
  refine words_short ?_
  simp only [encMA]
  omega

theorem Words.acas {d a b st size} : Words.Statement (.acas d a b st size) := by
  refine words_short ?_
  simp only [encMA]
  omega

theorem Words.ared {a b st size op} : Words.Statement (.ared a b st size op) := by
  refine words_short ?_
  have := atOpCode_le op
  simp only [encMA]
  omega

theorem Words.mcst {g a b st size op} : Words.Statement (.mcst g a b st size op) := by
  refine words_short ?_
  have := atOpCode_le op
  simp only [encMA]
  omega

theorem Words.b {off} : Words.Statement (.b off) := by
  refine words_short ?_
  omega

theorem Words.jal {off} : Words.Statement (.jal off) := by
  refine words_short ?_
  omega

theorem Words.jr {d a} : Words.Statement (.jr d a) := by
  refine words_short ?_
  simp only [encI]
  omega

theorem Words.loop {a len} : Words.Statement (.loop a len) := by
  refine words_short ?_
  simp only [encI]
  omega

theorem Words.beq {a b off} : Words.Statement (.beq a b off) := by
  refine words_short ?_
  simp only [encI]
  omega

theorem Words.bne {a b off} : Words.Statement (.bne a b off) := by
  refine words_short ?_
  simp only [encI]
  omega

theorem Words.blt {a b off} : Words.Statement (.blt a b off) := by
  refine words_short ?_
  simp only [encI]
  omega

theorem Words.bge {a b off} : Words.Statement (.bge a b off) := by
  refine words_short ?_
  simp only [encI]
  omega

theorem Words.bltn {a b off} : Words.Statement (.bltn a b off) := by
  refine words_short ?_
  simp only [encI]
  omega

theorem Words.bgen {a b off} : Words.Statement (.bgen a b off) := by
  refine words_short ?_
  simp only [encI]
  omega

theorem Words.nop : Words.Statement (.nop) := by
  refine words_short ?_
  simp only [encR]
  omega

theorem Words.endSeq : Words.Statement (.endSeq) := by
  refine words_short ?_
  simp only [encR]
  omega

theorem Words.trap {a} : Words.Statement (.trap a) := by
  refine words_short ?_
  simp only [encR]
  omega

theorem Words.eret : Words.Statement (.eret) := by
  refine words_short ?_
  simp only [encR]
  omega

theorem Words.bkpt : Words.Statement (.bkpt) := by
  refine words_short ?_
  simp only [encR]
  omega

theorem Words.pause : Words.Statement (.pause) := by
  refine words_short ?_
  simp only [encR]
  omega

theorem Words.fence {m} : Words.Statement (.fence m) := by
  refine words_short ?_
  omega

theorem Words.rds {d x} : Words.Statement (.rds d x) := by
  refine words_short ?_
  have := sprIndex_lt x
  omega

theorem Words.wrs {x d} : Words.Statement (.wrs x d) := by
  refine words_short ?_
  have := sprIndex_lt x
  omega

theorem Words.take {m} : Words.Statement (.take m) := by
  refine words_short ?_
  omega

theorem Words.give {m} : Words.Statement (.give m) := by
  refine words_short ?_
  omega

theorem Words.fwait {d a b cc t} : Words.Statement (.fwait d a b cc t) := by
  refine words_short ?_
  have := b2n_le t
  have := condCode_le cc
  simp only [encR]
  omega

theorem Words.fset {a b} : Words.Statement (.fset a b) := by
  refine words_short ?_
  simp only [encR]
  omega

theorem Words.fadd {d a b} : Words.Statement (.fadd d a b) := by
  refine words_short ?_
  simp only [encR]
  omega

theorem Words.fget {d a} : Words.Statement (.fget d a) := by
  refine words_short ?_
  simp only [encR]
  omega

theorem Words.gset {a b} : Words.Statement (.gset a b) := by
  refine words_short ?_
  simp only [encR]
  omega

theorem Words.binit {d a b} : Words.Statement (.binit d a b) := by
  refine words_short ?_
  simp only [encR]
  omega

theorem Words.barv {d a b t} : Words.Statement (.barv d a b t) := by
  refine words_short ?_
  have := b2n_le t
  simp only [encR]
  omega

theorem Words.bwait {d a b t} : Words.Statement (.bwait d a b t) := by
  refine words_short ?_
  have := b2n_le t
  simp only [encR]
  omega

theorem Words.tpost {d a w} : Words.Statement (.tpost d a w) := by
  refine words_short ?_
  have := b2n_le w
  simp only [encR]
  omega

theorem Words.tpostx {a b c w} : Words.Statement (.tpostx a b c w) := by
  refine words_short ?_
  have := b2n_le w
  simp only [encR]
  omega

theorem Words.tstat {d a} : Words.Statement (.tstat d a) := by
  refine words_short ?_
  simp only [encR]
  omega

theorem Words.frdef {d a b} : Words.Statement (.frdef d a b) := by
  refine words_short ?_
  simp only [encR]
  omega

theorem Words.frfree {d a} : Words.Statement (.frfree d a) := by
  refine words_short ?_
  simp only [encR]
  omega

theorem Words.larm {d a} : Words.Statement (.larm d a) := by
  refine words_short ?_
  simp only [encR]
  omega

theorem Words.lpatch {d a b} : Words.Statement (.lpatch d a b) := by
  refine words_short ?_
  simp only [encR]
  omega

theorem Words.sseal {d} : Words.Statement (.sseal d) := by
  refine words_short ?_
  simp only [encR]
  omega

theorem Words.sstat {d a b} : Words.Statement (.sstat d a b) := by
  refine words_short ?_
  simp only [encR]
  omega

theorem Words.swait {d a t} : Words.Statement (.swait d a t) := by
  refine words_short ?_
  have := b2n_le t
  simp only [encR]
  omega

theorem Words.crule {d a b} : Words.Statement (.crule d a b) := by
  refine words_short ?_
  simp only [encR]
  omega

theorem Words.iwdef {d a b} : Words.Statement (.iwdef d a b) := by
  refine words_short ?_
  simp only [encR]
  omega

theorem Words.vadd {f s} : Words.Statement (.vadd f s) := by
  refine words_short ?_
  have := b2n_le s
  simp only [encV]
  omega

theorem Words.vsub {f s} : Words.Statement (.vsub f s) := by
  refine words_short ?_
  have := b2n_le s
  simp only [encV]
  omega

theorem Words.vmul {f s} : Words.Statement (.vmul f s) := by
  refine words_short ?_
  have := b2n_le s
  simp only [encV]
  omega

theorem Words.vfma {f} : Words.Statement (.vfma f) := by
  refine words_short ?_
  simp only [encV]
  omega

theorem Words.vmin {f} : Words.Statement (.vmin f) := by
  refine words_short ?_
  simp only [encV]
  omega

theorem Words.vmax {f} : Words.Statement (.vmax f) := by
  refine words_short ?_
  simp only [encV]
  omega

theorem Words.vabs {f} : Words.Statement (.vabs f) := by
  refine words_short ?_
  simp only [encV]
  omega

theorem Words.vneg {f} : Words.Statement (.vneg f) := by
  refine words_short ?_
  simp only [encV]
  omega

theorem Words.vand {f} : Words.Statement (.vand f) := by
  refine words_short ?_
  simp only [encV]
  omega

theorem Words.vor {f} : Words.Statement (.vor f) := by
  refine words_short ?_
  simp only [encV]
  omega

theorem Words.vxor {f} : Words.Statement (.vxor f) := by
  refine words_short ?_
  simp only [encV]
  omega

theorem Words.vshl {f} : Words.Statement (.vshl f) := by
  refine words_short ?_
  simp only [encV]
  omega

theorem Words.vshr {f} : Words.Statement (.vshr f) := by
  refine words_short ?_
  simp only [encV]
  omega

theorem Words.vsel {f} : Words.Statement (.vsel f) := by
  refine words_short ?_
  simp only [encV]
  omega

theorem Words.vmov {f} : Words.Statement (.vmov f) := by
  refine words_short ?_
  simp only [encV]
  omega

theorem Words.vcmp {f cc} : Words.Statement (.vcmp f cc) := by
  refine words_short ?_
  have := condCode_le cc
  simp only [encV]
  omega

theorem Words.vcvt {f t s} : Words.Statement (.vcvt f t s) := by
  refine words_short ?_
  have := b2n_le s
  simp only [encV]
  omega

theorem Words.vwid {f t s} : Words.Statement (.vwid f t s) := by
  refine words_short ?_
  have := b2n_le s
  simp only [encV]
  omega

theorem Words.vnar {f t s} : Words.Statement (.vnar f t s) := by
  refine words_short ?_
  have := b2n_le s
  simp only [encV]
  omega

theorem Words.vsf {f fn} : Words.Statement (.vsf f fn) := by
  refine words_short ?_
  have := sfFnCode_le fn
  simp only [encV]
  omega

theorem Words.vred {f op} : Words.Statement (.vred f op) := by
  refine words_short ?_
  have := redOpCode_le op
  simp only [encV]
  omega

theorem Words.vbc {f} : Words.Statement (.vbc f) := by
  refine words_short ?_
  simp only [encV]
  omega

theorem Words.viota {f} : Words.Statement (.viota f) := by
  refine words_short ?_
  simp only [encV]
  omega

theorem Words.vperm {f} : Words.Statement (.vperm f) := by
  refine words_short ?_
  simp only [encV]
  omega

theorem Words.vsetl {f} : Words.Statement (.vsetl f) := by
  refine words_short ?_
  simp only [encV]
  omega

theorem Words.vpart {f} : Words.Statement (.vpart f) := by
  refine words_short ?_
  simp only [encV]
  omega

theorem Words.mclr {f} : Words.Statement (.mclr f) := by
  refine words_short ?_
  simp only [encV]
  omega

theorem Words.mupd {f} : Words.Statement (.mupd f) := by
  refine words_short ?_
  simp only [encV]
  omega

theorem Words.mupdw {f} : Words.Statement (.mupdw f) := by
  refine words_short ?_
  simp only [encV]
  omega

theorem Words.mmrg {f} : Words.Statement (.mmrg f) := by
  refine words_short ?_
  simp only [encV]
  omega

theorem Words.mget {f} : Words.Statement (.mget f) := by
  refine words_short ?_
  simp only [encV]
  omega

theorem Words.mnorm {f} : Words.Statement (.mnorm f) := by
  refine words_short ?_
  simp only [encV]
  omega

theorem Words.mld {f} : Words.Statement (.mld f) := by
  refine words_short ?_
  simp only [encV]
  omega

theorem Words.mst {f} : Words.Statement (.mst f) := by
  refine words_short ?_
  simp only [encV]
  omega

theorem Words.azero {a b} : Words.Statement (.azero a b) := by
  refine words_short ?_
  simp only [encR]
  omega

theorem Words.fmtq {a} : Words.Statement (.fmtq a) := by
  refine words_short ?_
  simp only [encR]
  omega

theorem Words.agld {n a imm} : Words.Statement (.agld n a imm) := by
  refine words_short ?_
  simp only [encI]
  omega

theorem Words.agst {n a imm} : Words.Statement (.agst n a imm) := by
  refine words_short ?_
  simp only [encI]
  omega

theorem Words.carm {d a b} : Words.Statement (.carm d a b) := by
  refine words_short ?_
  simp only [encR]
  omega

theorem Words.lda {n e} : Words.Statement (.lda n e) := by
  refine words_long ?_ ?_ ?_ (encE_lt _ _ ?_) <;> omega

theorem Words.ldb {n b e} : Words.Statement (.ldb n b e) := by
  refine words_long ?_ ?_ ?_ (encE_lt _ _ ?_) <;> omega

theorem Words.mma {a b buf z k e} : Words.Statement (.mma a b buf z k e) := by
  have := b2n_le z
  have := b2n_le k
  refine words_long ?_ ?_ ?_ (encE_lt _ _ ?_) <;> omega

theorem Words.drain {a b agD agM ge mode ty sat lh e} : Words.Statement (.drain a b agD agM ge mode ty sat lh e) := by
  have := b2n_le sat
  have := drainModeCode_le mode
  refine words_long ?_ ?_ ?_ (encE_lt _ _ ?_) <;> omega

theorem Words.nmv {d e} : Words.Statement (.nmv d e) := by
  refine words_long ?_ ?_ ?_ (encE_lt _ _ ?_) <;> omega

theorem Words.cpy {agD agS e} : Words.Statement (.cpy agD agS e) := by
  refine words_long ?_ ?_ ?_ (encE_lt _ _ ?_) <;> omega

theorem Words.xpose {agD agS r e} : Words.Statement (.xpose agD agS r e) := by
  refine words_long ?_ ?_ ?_ (encE_lt _ _ ?_) <;> omega

theorem Words.coll {d e} : Words.Statement (.coll d e) := by
  refine words_long ?_ ?_ ?_ (encE_lt _ _ ?_) <;> omega

theorem Words.ldv {q n e} : Words.Statement (.ldv q n e) := by
  refine words_long ?_ ?_ ?_ (encE_lt _ _ ?_) <;> omega

theorem Words.stv {q n e} : Words.Statement (.stv q n e) := by
  refine words_long ?_ ?_ ?_ (encE_lt _ _ ?_) <;> omega

theorem Words.vgath {q n b ty e} : Words.Statement (.vgath q n b ty e) := by
  refine words_long ?_ ?_ ?_ (encE_lt _ _ ?_) <;> omega

theorem Words.vscat {q n b ty e} : Words.Statement (.vscat q n b ty e) := by
  refine words_long ?_ ?_ ?_ (encE_lt _ _ ?_) <;> omega

theorem Words.chain {d e} : Words.Statement (.chain d e) := by
  refine words_long ?_ ?_ ?_ (encE_lt _ _ ?_) <;> omega

theorem Words.sequencerWake {x0 x1} : Words.Statement (.sequencerWake x0 x1) := rfl

theorem Words.waitTimeout {x0 x1} : Words.Statement (.waitTimeout x0 x1) := rfl

theorem Words.bwaitTimeout {x0 x1} : Words.Statement (.bwaitTimeout x0 x1) := rfl

theorem Words.pauseEnd {x0 x1} : Words.Statement (.pauseEnd x0 x1) := rfl

theorem Words.engineQueueHead {x0} : Words.Statement (.engineQueueHead x0) := rfl

theorem Words.aRingRowDelivery {x0} : Words.Statement (.aRingRowDelivery x0) := rfl

theorem Words.ldaComplete {x0} : Words.Statement (.ldaComplete x0) := rfl

theorem Words.ldbComplete {x0} : Words.Statement (.ldbComplete x0) := rfl

theorem Words.mmaComplete {x0} : Words.Statement (.mmaComplete x0) := rfl

theorem Words.drainComplete {x0} : Words.Statement (.drainComplete x0) := rfl

theorem Words.ldvComplete {x0} : Words.Statement (.ldvComplete x0) := rfl

theorem Words.stvComplete {x0} : Words.Statement (.stvComplete x0) := rfl

theorem Words.vgathComplete {x0} : Words.Statement (.vgathComplete x0) := rfl

theorem Words.vscatComplete {x0} : Words.Statement (.vscatComplete x0) := rfl

theorem Words.chainComplete {x0} : Words.Statement (.chainComplete x0) := rfl

theorem Words.cpyComplete {x0} : Words.Statement (.cpyComplete x0) := rfl

theorem Words.xposeComplete {x0} : Words.Statement (.xposeComplete x0) := rfl

theorem Words.nmvComplete {x0} : Words.Statement (.nmvComplete x0) := rfl

theorem Words.engineCommandFault {x0} : Words.Statement (.engineCommandFault x0) := rfl

theorem Words.postSequencerTake : Words.Statement (.postSequencerTake) := rfl

theorem Words.postRetry {x0} : Words.Statement (.postRetry x0) := rfl

theorem Words.tpostWaitExpiry {x0} : Words.Statement (.tpostWaitExpiry x0) := rfl

theorem Words.ergRelease : Words.Statement (.ergRelease) := rfl

theorem Words.readyClassRaise {x0} : Words.Statement (.readyClassRaise x0) := rfl

theorem Words.taskRetire {x0} : Words.Statement (.taskRetire x0) := rfl

theorem Words.abortedCellFree {x0} : Words.Statement (.abortedCellFree x0) := rfl

theorem Words.remotePostArrival {x0} : Words.Statement (.remotePostArrival x0) := rfl

theorem Words.tpostxAnswer {x0 x1} : Words.Statement (.tpostxAnswer x0 x1) := rfl

theorem Words.tpostxNoAnswer {x0} : Words.Statement (.tpostxNoAnswer x0) := rfl

theorem Words.pageWalkComplete {x0} : Words.Statement (.pageWalkComplete x0) := rfl

theorem Words.peerReadRequest {x0} : Words.Statement (.peerReadRequest x0) := rfl

theorem Words.peerReadResponse {x0 x1} : Words.Statement (.peerReadResponse x0 x1) := rfl

theorem Words.remoteReadTimeout {x0} : Words.Statement (.remoteReadTimeout x0) := rfl

theorem Words.caravanRecordArrival {x0} : Words.Statement (.caravanRecordArrival x0) := rfl

theorem Words.sealSend {x0} : Words.Statement (.sealSend x0) := rfl

theorem Words.sealArrival {x0} : Words.Statement (.sealArrival x0) := rfl

theorem Words.boundaryRelease {x0} : Words.Statement (.boundaryRelease x0) := rfl

theorem Words.boundaryApply {x0} : Words.Statement (.boundaryApply x0) := rfl

theorem Words.boundaryResultReport {x0} : Words.Statement (.boundaryResultReport x0) := rfl

theorem Words.boundaryRecordTimeout {x0 x1} : Words.Statement (.boundaryRecordTimeout x0 x1) := rfl

theorem Words.inboundStallTimeout {x0 x1} : Words.Statement (.inboundStallTimeout x0 x1) := rfl

theorem Words.packetForward {x0} : Words.Statement (.packetForward x0) := rfl

theorem Words.packetResend {x0} : Words.Statement (.packetResend x0) := rfl

theorem Words.linkStateChange {x0 x1} : Words.Statement (.linkStateChange x0 x1) := rfl

theorem Words.podBarrierArrival {x0} : Words.Statement (.podBarrierArrival x0) := rfl

theorem Words.podBarrierPhase {x0} : Words.Statement (.podBarrierPhase x0) := rfl

theorem Words.podBarvTimeout {x0 x1} : Words.Statement (.podBarvTimeout x0 x1) := rfl

theorem Words.proxyAbsenceToken {x0} : Words.Statement (.proxyAbsenceToken x0) := rfl

theorem Words.absenceTokenWithdrawal {x0} : Words.Statement (.absenceTokenWithdrawal x0) := rfl

theorem Words.armedRunStart {x0 x1} : Words.Statement (.armedRunStart x0 x1) := rfl

theorem Words.collSend {x0} : Words.Statement (.collSend x0) := rfl

theorem Words.collRecv {x0} : Words.Statement (.collRecv x0) := rfl

theorem Words.collRrs {x0} : Words.Statement (.collRrs x0) := rfl

theorem Words.collCopy {x0} : Words.Statement (.collCopy x0) := rfl

theorem Words.collWait {x0} : Words.Statement (.collWait x0) := rfl

theorem Words.collSignal {x0} : Words.Statement (.collSignal x0) := rfl

theorem Words.collLoop {x0} : Words.Statement (.collLoop x0) := rfl

theorem Words.collEnd {x0} : Words.Statement (.collEnd x0) := rfl

theorem Words.collDataArrival {x0} : Words.Statement (.collDataArrival x0) := rfl

theorem Words.collCreditArrival {x0} : Words.Statement (.collCreditArrival x0) := rfl

theorem Words.collAckArrival {x0} : Words.Statement (.collAckArrival x0) := rfl

theorem Words.collAbortArrival {x0} : Words.Statement (.collAbortArrival x0) := rfl

theorem Words.collRunTimeout {x0} : Words.Statement (.collRunTimeout x0) := rfl

theorem Words.taskWatchdogExpiry {x0} : Words.Statement (.taskWatchdogExpiry x0) := rfl

theorem Words.ladderLevelOverrun {x0} : Words.Statement (.ladderLevelOverrun x0) := rfl

theorem Words.cairnHeartbeatMissing {x0} : Words.Statement (.cairnHeartbeatMissing x0) := rfl

theorem Words.siroccoHeartbeatMissing : Words.Statement (.siroccoHeartbeatMissing) := rfl

theorem Words.functionLevelReset : Words.Statement (.functionLevelReset) := rfl

theorem Words.powerUp {x0} : Words.Statement (.powerUp x0) := rfl

theorem Words.parityError {x0} : Words.Statement (.parityError x0) := rfl

theorem Words.patrolScrub {x0} : Words.Statement (.patrolScrub x0) := rfl

theorem Words.powerCapClockStep : Words.Statement (.powerCapClockStep) := rfl

theorem Words.preemptionRequest {x0} : Words.Statement (.preemptionRequest x0) := rfl

theorem Words.preemptionSave {x0} : Words.Statement (.preemptionSave x0) := rfl

theorem Words.preemptionAbandon {x0} : Words.Statement (.preemptionAbandon x0) := rfl

theorem Words.saveLost {x0} : Words.Statement (.saveLost x0) := rfl

theorem Words.shootdownReport {x0} : Words.Statement (.shootdownReport x0) := rfl

theorem Words.shootdownTimeout : Words.Statement (.shootdownTimeout) := rfl

theorem Words.launch {x0} : Words.Statement (.launch x0) := rfl

theorem Words.framedef {x0} : Words.Statement (.framedef x0) := rfl

theorem Words.framefree {x0} : Words.Statement (.framefree x0) := rfl

theorem Words.ctxcfg {x0} : Words.Statement (.ctxcfg x0) := rfl

theorem Words.shootdown {x0} : Words.Statement (.shootdown x0) := rfl

theorem Words.keyinst {x0} : Words.Statement (.keyinst x0) := rfl

theorem Words.ctxout {x0} : Words.Statement (.ctxout x0) := rfl

theorem Words.ctxin {x0} : Words.Statement (.ctxin x0) := rfl

theorem Words.preempt {x0} : Words.Statement (.preempt x0) := rfl

theorem Words.hostNop {x0} : Words.Statement (.hostNop x0) := rfl

theorem Words.abort {x0} : Words.Statement (.abort x0) := rfl

theorem Words.podjoin {x0} : Words.Statement (.podjoin x0) := rfl

theorem Words.podremove {x0} : Words.Statement (.podremove x0) := rfl

theorem Words.podleave {x0} : Words.Statement (.podleave x0) := rfl

theorem Words.doorbell {x0 x1} : Words.Statement (.doorbell x0 x1) := rfl

theorem Words.trigger {x0 x1} : Words.Statement (.trigger x0 x1) := rfl

theorem Words.qctl {x0 x1} : Words.Statement (.qctl x0 x1) := rfl

theorem Words.restart {x0} : Words.Statement (.restart x0) := rfl

theorem Words.pcap {x0} : Words.Statement (.pcap x0) := rfl

theorem Words.eccCounterRead {x0} : Words.Statement (.eccCounterRead x0) := rfl

theorem Words.lsend {x0 x1} : Words.Statement (.lsend x0 x1) := rfl

theorem Words.lrecv {x0} : Words.Statement (.lrecv x0) := rfl

theorem Words.registerWrite {x0 x1 x2} : Words.Statement (.registerWrite x0 x1 x2) := rfl

theorem Words.verifyComplete : Words.Statement (.verifyComplete) := rfl

theorem Words.activateFirmware : Words.Statement (.activateFirmware) := rfl

theorem Words.handoverHeartbeatTimeout : Words.Statement (.handoverHeartbeatTimeout) := rfl

theorem Words.getVersion {x0} : Words.Statement (.getVersion x0) := rfl

theorem Words.getCapabilities {x0} : Words.Statement (.getCapabilities x0) := rfl

theorem Words.negotiateAlgorithms {x0} : Words.Statement (.negotiateAlgorithms x0) := rfl

theorem Words.getDigests {x0} : Words.Statement (.getDigests x0) := rfl

theorem Words.getCertificate {x0} : Words.Statement (.getCertificate x0) := rfl

theorem Words.challenge {x0} : Words.Statement (.challenge x0) := rfl

theorem Words.getMeasurements {x0} : Words.Statement (.getMeasurements x0) := rfl

theorem Words.sandglassRead {x0 x1} : Words.Statement (.sandglassRead x0 x1) := rfl

theorem Words.accessPerformed {x0} : Words.Statement (.accessPerformed x0) := rfl

theorem Words.rowUpdate {x0} : Words.Statement (.rowUpdate x0) := rfl

theorem Words.entryFilled {x0} : Words.Statement (.entryFilled x0) := rfl

theorem Words.illegalEncoding {x0 x1} : Words.Statement (.illegalEncoding x0 x1) := rfl

theorem Words.imageStaged {x0 x1} : Words.Statement (.imageStaged x0 x1) := rfl

theorem Words.handOverComplete : Words.Statement (.handOverComplete) := rfl

end Sys2Proof.Laws
end

