-- ==== Sys2Proof/Tests/Slice0.lean ====
section
/-! SUPPORT. Tests of the model: ill-formed instructions that decoding refuses, words written out from the spec's encodings, states that
meet the hypotheses of the statements, and single steps whose results are computed by hand from the spec. -/

namespace Sys2Proof.Tests

open Sys2Proof Sys2Proof.Machine

set_option maxRecDepth 100000

/-! ### States for tests -/

/-- A box over 32 KiB of bytes from `base` on. -/
def box (mode : BoxMode) (base : Word) : TaskBox :=
  ⟨mode, 0, ⟨base, base, 1, 1, #v[0x8000, 1, 1, 1], #v[1, 0, 0, 0]⟩, 0, #v[0, 0, 0, 0], #v[0x8000, 0, 0, 0]⟩

def onCell (s : State) (f : Cell → Cell) : State := s.setMyCell (f s.myCell)

def onSeq (s : State) (f : Seq → Seq) : State := s.setMe (f s.me)

def onCtx (s : State) (f : Ctx → Ctx) : State := s.setCtx s.ctxIx (f s.myCtx)

/-- A CELL task runs on cell 0 and sequencer `q` acts, with the given g-registers and a handler at 0x40. Its first box lets it read and
write addresses 0 to 0x7FFF, its second takes atomics from 0x8000 to 0xFFFF. -/
def st (q : Role) (gs : List (Reg × Word)) : State :=
  let s := gs.foldl (fun s x => s.setG x.1 x.2) { State.reset.withTask with role := q }
  onSeq (onCell s fun x => { x with boxes := [box .RW 0, box .A 0x8000], accEnd := 16 }) fun y => { y with tvec := 0x40 }

/-! ### Ill-formed instructions, one for each check of well-formedness, with the detail that R312 gives its word -/

/-- EXT and INS of a field that ends beyond bit 63 (R305): pos 60, len 5. -/
theorem test_wf_field : (Instr.ext 3 4 false 60 4).wf = false ∧ (Instr.ins 3 4 60 4).wf = false ∧ (Instr.ext 3 4 false 60 3).wf = true ∧
    decode 0x30640F04 0 = .illegal 4 ∧ decode 0x34640F04 0 = .illegal 4 := by decide

/-- AMO on 2 bytes and with an f32 operation, ACAS on 1 byte (R306). -/
theorem test_wf_atomic : (Instr.amo 3 4 5 0 1 .add).wf = false ∧ (Instr.amo 3 4 5 0 2 .fadd).wf = false ∧ (Instr.acas 3 4 5 0 0).wf = false ∧
    decode 0x48640251 0 = .illegal 4 ∧ decode 0x48640459 0 = .illegal 4 ∧ decode 0x4C640050 0 = .illegal 4 := by decide

/-- ARED has no swap, and its f32 operations take 4 bytes; MCST takes every size of a plain store, and 4 bytes of an f32 reduction (R306). -/
theorem test_wf_reduce : (Instr.ared 4 5 0 2 .swap).wf = false ∧ (Instr.ared 4 5 0 3 .fmin).wf = false ∧
    (Instr.mcst 3 4 5 0 1 .add).wf = false ∧ (Instr.mcst 3 4 5 0 3 .fmax).wf = false ∧ (Instr.mcst 3 4 5 0 0 .swap).wf = true ∧
    decode 0x50040450 0 = .illegal 4 ∧ decode 0x5004065A 0 = .illegal 4 ∧ decode 0x54640251 0 = .illegal 4 ∧ decode 0x5464065B 0 = .illegal 4 := by
  decide

/-- A LOOP with an empty body (R307). -/
theorem test_wf_loop : (Instr.loop 2 0).wf = false ∧ decode 0x6C400000 0 = .illegal 4 := by decide

/-- `.sat` of a floating type (R422), and a table that the mode of a DRAIN leaves unused (R355). -/
theorem test_wf_sat : (Instr.vadd ⟨3, 4, 5, 12⟩ true).wf = false ∧ (Instr.vsub ⟨3, 4, 5, 8⟩ true).wf = false ∧
    (Instr.vmul ⟨3, 4, 5, 15⟩ true).wf = false ∧ decode 0xA0642E20 0 = .illegal 3 ∧
    (Instr.drain 3 4 1 2 0 .plain 12 false 0 ⟨0, 0, 0, 0⟩).wf = false ∧ (Instr.drain 3 4 1 2 6 .mom 12 false 0 ⟨0, 0, 0, 0⟩).wf = false ∧
    decode 0xCC642800 0x3000 = .illegal 3 ∧ decode 0xCC6428C8 0x3000 = .illegal 3 := by decide

/-- R312: a reserved major, a reserved sub-operation, a set reserved bit, a reserved condition code and a reserved special register. -/
theorem test_illegal_details : decode 0x00000000 0 = .illegal 1 ∧ decode 0x04642812 0 = .illegal 2 ∧ decode 0x04642840 0 = .illegal 3 ∧
    decode 0x04432191 0 = .illegal 4 ∧ decode 0x88A03007 0 = .illegal 4 ∧ (Instr.sequencerWake 0 .K).wf = false := by decide

/-! ### Words of every instruction, field by field from the encoding tables -/

/-- R304: one word of each. -/
theorem test_decode_alu : ∀ x ∈ ([
    (0x04642800, 0x0, .add 3 4 5),
    (0x04642801, 0x0, .sub 3 4 5),
    (0x04642802, 0x0, .mul 3 4 5),
    (0x04642806, 0x0, .and 3 4 5),
    (0x04642807, 0x0, .or 3 4 5),
    (0x04642808, 0x0, .xor 3 4 5),
    (0x04642809, 0x0, .shl 3 4 5),
    (0x0464280A, 0x0, .shr 3 4 5),
    (0x0464280B, 0x0, .sra 3 4 5),
    (0x07D14843, 0x0, .mulh 30 17 9 true),
    (0x07D14844, 0x0, .div 30 17 9 true),
    (0x07D14845, 0x0, .rem 30 17 9 true),
    (0x07D1484C, 0x0, .min 30 17 9 true),
    (0x07D1484D, 0x0, .max 30 17 9 true),
    (0x04E8000E, 0x0, .clz 7 8),
    (0x04E8000F, 0x0, .popc 7 8),
    (0x04221FD0, 0x0, .sel 1 2 3 31),
    (0x04432111, 0x0, .cmp 2 3 4 .ltn)] : List (Nat × Nat × Instr)),
  decode x.1 x.2.1 = .instr x.2.2 ∧ encode x.2.2 = some (x.1, x.2.1) := by decide

/-- R305: one word of each. -/
theorem test_decode_immediate : ∀ x ∈ ([
    (0x0843FFF8, 0x0, .addi 2 3 0xFFF8),
    (0x0C43FFF8, 0x0, .andi 2 3 0xFFF8),
    (0x1043FFF8, 0x0, .ori 2 3 0xFFF8),
    (0x1443FFF8, 0x0, .xori 2 3 0xFFF8),
    (0x1843003F, 0x0, .shli 2 3 63),
    (0x1C43003F, 0x0, .shri 2 3 63),
    (0x2043003F, 0x0, .srai 2 3 63),
    (0x24225FFF, 0x0, .cmpi 1 2 .lt 0x1FFF),
    (0x28808001, 0x0, .movi 4 0x8001),
    (0x2C821234, 0x0, .movh 4 0x1234 2),
    (0x3064820F, 0x0, .ext 3 4 true 8 15),
    (0x3464020F, 0x0, .ins 3 4 8 15)] : List (Nat × Nat × Instr)),
  decode x.1 x.2.1 = .instr x.2.2 ∧ encode x.2.2 = some (x.1, x.2.1) := by decide

/-- R306: one word of each. -/
theorem test_decode_memory : ∀ x ∈ ([
    (0x40E91C03, 0x0, .ld 7 9 1 .i32 3),
    (0x44E915FF, 0x0, .st 7 9 1 2 0x1FF),
    (0x48642651, 0x0, .amo 3 4 5 2 3 .add),
    (0x4864220F, 0x0, .ldAtom 3 4 2 1),
    (0x4C220430, 0x0, .acas 1 2 3 0 2),
    (0x5004F45B, 0x0, .ared 4 5 15 2 .fmax),
    (0x54C40459, 0x0, .mcst 6 4 5 0 2 .fadd)] : List (Nat × Nat × Instr)),
  decode x.1 x.2.1 = .instr x.2.2 ∧ encode x.2.2 = some (x.1, x.2.1) := by decide

/-- R307: one word of each. -/
theorem test_decode_control : ∀ x ∈ ([
    (0x63FFFFFF, 0x0, .b 0x3FFFFFF),
    (0x64000010, 0x0, .jal 16),
    (0x6BE50000, 0x0, .jr 31 5),
    (0x6C400002, 0x0, .loop 2 2),
    (0x703EFFFC, 0x0, .beq 1 30 0xFFFC),
    (0x743EFFFC, 0x0, .bne 1 30 0xFFFC),
    (0x783EFFFC, 0x0, .blt 1 30 0xFFFC),
    (0x7C3EFFFC, 0x0, .bge 1 30 0xFFFC),
    (0x803EFFFC, 0x0, .bltn 1 30 0xFFFC),
    (0x843EFFFC, 0x0, .bgen 1 30 0xFFFC)] : List (Nat × Nat × Instr)),
  decode x.1 x.2.1 = .instr x.2.2 ∧ encode x.2.2 = some (x.1, x.2.1) := by decide

/-- R308, R301: one word of each. -/
theorem test_decode_sys : ∀ x ∈ ([
    (0x88000000, 0x0, .nop),
    (0x88000001, 0x0, .endSeq),
    (0x88090002, 0x0, .trap 9),
    (0x88000003, 0x0, .eret),
    (0x88000004, 0x0, .bkpt),
    (0x88000005, 0x0, .pause),
    (0x88000886, 0x0, .fence 0x22),
    (0x88A18807, 0x0, .rds 5 .stepst),
    (0x8842A008, 0x0, .wrs .tvec 2),
    (0x88000149, 0x0, .take 5),
    (0x8800008A, 0x0, .give 2)] : List (Nat × Nat × Instr)),
  decode x.1 x.2.1 = .instr x.2.2 ∧ encode x.2.2 = some (x.1, x.2.1) := by decide

/-- R309, R337: one word of each. -/
theorem test_decode_flag : ∀ x ∈ ([
    (0x8C8531C0, 0x0, .fwait 4 5 6 .ge true),
    (0x8C053001, 0x0, .fset 5 6),
    (0x8C853002, 0x0, .fadd 4 5 6),
    (0x8C850003, 0x0, .fget 4 5),
    (0x8C053004, 0x0, .gset 5 6),
    (0x90642800, 0x0, .binit 3 4 5),
    (0x90642841, 0x0, .barv 3 4 5 true),
    (0x90642802, 0x0, .bwait 3 4 5 false)] : List (Nat × Nat × Instr)),
  decode x.1 x.2.1 = .instr x.2.2 ∧ encode x.2.2 = some (x.1, x.2.1) := by decide

/-- R309, R416, R235: one word of each. -/
theorem test_decode_task : ∀ x ∈ ([
    (0x94640040, 0x0, .tpost 3 4 true),
    (0x94242981, 0x0, .tpostx 4 5 6 true),
    (0x94640002, 0x0, .tstat 3 4),
    (0x94221803, 0x0, .frdef 1 2 3),
    (0x94220004, 0x0, .frfree 1 2),
    (0x94220005, 0x0, .larm 1 2),
    (0x94221806, 0x0, .lpatch 1 2 3),
    (0x98400000, 0x0, .sseal 2),
    (0x98221801, 0x0, .sstat 1 2 3),
    (0x98490042, 0x0, .swait 2 9 true),
    (0x98221803, 0x0, .crule 1 2 3),
    (0x98221804, 0x0, .iwdef 1 2 3)] : List (Nat × Nat × Instr)),
  decode x.1 x.2.1 = .instr x.2.2 ∧ encode x.2.2 = some (x.1, x.2.1) := by decide

/-- R310, R422 to R430: one word of each. -/
theorem test_decode_vector : ∀ x ∈ ([
    (0xA078FBA0, 0x0, .vadd ⟨3, 24, 31, 7⟩ true),
    (0xA078FBA1, 0x0, .vsub ⟨3, 24, 31, 7⟩ true),
    (0xA078FBA2, 0x0, .vmul ⟨3, 24, 31, 7⟩ true),
    (0xA0642E03, 0x0, .vfma ⟨3, 4, 5, 12⟩),
    (0xA0642E04, 0x0, .vmin ⟨3, 4, 5, 12⟩),
    (0xA0642E05, 0x0, .vmax ⟨3, 4, 5, 12⟩),
    (0xA0642E08, 0x0, .vand ⟨3, 4, 5, 12⟩),
    (0xA0642E09, 0x0, .vor ⟨3, 4, 5, 12⟩),
    (0xA0642E0A, 0x0, .vxor ⟨3, 4, 5, 12⟩),
    (0xA0642E0B, 0x0, .vshl ⟨3, 4, 5, 12⟩),
    (0xA0642E0C, 0x0, .vshr ⟨3, 4, 5, 12⟩),
    (0xA0642E0D, 0x0, .vsel ⟨3, 4, 5, 12⟩),
    (0xB0642E03, 0x0, .vperm ⟨3, 4, 5, 12⟩),
    (0xB4642E00, 0x0, .vpart ⟨3, 4, 5, 12⟩),
    (0xA0640606, 0x0, .vabs ⟨3, 4, 0, 12⟩),
    (0xA0640607, 0x0, .vneg ⟨3, 4, 0, 12⟩),
    (0xA064060E, 0x0, .vmov ⟨3, 4, 0, 12⟩),
    (0xB0640601, 0x0, .vbc ⟨3, 4, 0, 12⟩),
    (0xB0640604, 0x0, .vsetl ⟨3, 4, 0, 12⟩),
    (0xB0600602, 0x0, .viota ⟨3, 0, 0, 12⟩),
    (0xA4642E01, 0x0, .vcmp ⟨3, 4, 5, 12⟩ .ne),
    (0xA8640664, 0x0, .vcvt ⟨3, 4, 0, 12⟩ 9 true),
    (0xA8640665, 0x0, .vwid ⟨3, 4, 0, 12⟩ 9 true),
    (0xA8640666, 0x0, .vnar ⟨3, 4, 0, 12⟩ 9 true),
    (0xAC620605, 0x0, .vsf ⟨3, 2, 0, 12⟩ .sin),
    (0xB0620628, 0x0, .vred ⟨3, 2, 0, 12⟩ .xor)] : List (Nat × Nat × Instr)),
  decode x.1 x.2.1 = .instr x.2.2 ∧ encode x.2.2 = some (x.1, x.2.1) := by decide

/-- R181: one word of each. -/
theorem test_decode_moment : ∀ x ∈ ([
    (0xB8600000, 0x0, .mclr ⟨3, 0, 0, 0⟩),
    (0xB8A00601, 0x0, .mupd ⟨5, 0, 0, 12⟩),
    (0xB8A11602, 0x0, .mupdw ⟨5, 1, 2, 12⟩),
    (0xB8400803, 0x0, .mmrg ⟨2, 0, 1, 0⟩),
    (0xB8640284, 0x0, .mget ⟨3, 4, 0, 5⟩),
    (0xB8642F85, 0x0, .mnorm ⟨3, 4, 5, 15⟩),
    (0xB8640386, 0x0, .mld ⟨3, 4, 0, 7⟩),
    (0xB8640387, 0x0, .mst ⟨3, 4, 0, 7⟩)] : List (Nat × Nat × Instr)),
  decode x.1 x.2.1 = .instr x.2.2 ∧ encode x.2.2 = some (x.1, x.2.1) := by decide

/-- R311: one word of each. -/
theorem test_decode_tile : ∀ x ∈ ([
    (0xBC042800, 0x0, .azero 4 5),
    (0xBC020001, 0x0, .fmtq 2),
    (0xBC470082, 0x0, .agld 2 7 2),
    (0xBC47FFC3, 0x0, .agst 2 7 0x3FF),
    (0xBCA63804, 0x0, .carm 5 6 7)] : List (Nat × Nat × Instr)),
  decode x.1 x.2.1 = .instr x.2.2 ∧ encode x.2.2 = some (x.1, x.2.1) := by decide

/-- R298, R311, R355: one word of each. -/
theorem test_decode_long : ∀ x ∈ ([
    (0xC1000000, 0xA4FD4000, .lda 2 ⟨5, 1, 0x3F, 5⟩),
    (0xC5C00000, 0xA4FD4000, .ldb 3 1 ⟨5, 1, 0x3F, 5⟩),
    (0xC864E000, 0xA4FD4000, .mma 3 4 1 true true ⟨5, 1, 0x3F, 5⟩),
    (0xCC646CD0, 0xA4FD7340, .drain 3 4 3 3 6 .norm 12 true 5 ⟨5, 1, 0x3F, 5⟩),
    (0xD0600000, 0xA4FD4000, .nmv 3 ⟨5, 1, 0x3F, 5⟩),
    (0xD5300000, 0xA4FD4000, .cpy 2 3 ⟨5, 1, 0x3F, 5⟩),
    (0xD9128000, 0xA4FD4000, .xpose 2 1 5 ⟨5, 1, 0x3F, 5⟩),
    (0xDC600000, 0xA4FD4000, .coll 3 ⟨5, 1, 0x3F, 5⟩),
    (0xE2C00000, 0xA4FD4000, .ldv 1 3 ⟨5, 1, 0x3F, 5⟩),
    (0xE6800000, 0xA4FD4000, .stv 1 2 ⟨5, 1, 0x3F, 5⟩),
    (0xE8C98000, 0xA4FD4000, .vgath 0 3 4 12 ⟨5, 1, 0x3F, 5⟩),
    (0xEEC98000, 0xA4FD4000, .vscat 1 3 4 12 ⟨5, 1, 0x3F, 5⟩),
    (0xF0C00000, 0xA4FD4000, .chain 6 ⟨5, 1, 0x3F, 5⟩)] : List (Nat × Nat × Instr)),
  decode x.1 x.2.1 = .instr x.2.2 ∧ encode x.2.2 = some (x.1, x.2.1) := by decide

/-- The words that the spec's own examples give. -/
theorem test_decode_examples : ∀ x ∈ ([
    (0x04221806, 0, .and 1 2 3), (0x04642844, 0, .div 3 4 5 true), (0x04432111, 0, .cmp 2 3 4 .ltn), (0x0842FFF8, 0, .addi 2 2 0xFFF8),
    (0x3064820F, 0, .ext 3 4 true 8 15), (0x3464020F, 0, .ins 3 4 8 15), (0x40E91C03, 0, .ld 7 9 1 .i32 3), (0x44E91403, 0, .st 7 9 1 2 3),
    (0x54C40459, 0, .mcst 6 4 5 0 2 .fadd), (0x88A18807, 0, .rds 5 .stepst), (0x8842A008, 0, .wrs .tvec 2), (0x8C853040, 0, .fwait 4 5 6 .eq true),
    (0xAC620605, 0, .vsf ⟨3, 2, 0, 12⟩ .sin), (0xB4A22980, 0, .vpart ⟨5, 2, 5, 3⟩), (0xB8400803, 0, .mmrg ⟨2, 0, 1, 0⟩),
    (0xC1000000, 0x08004000, .lda 2 ⟨0, 2, 0, 1⟩), (0xD0600000, 0x08008000, .nmv 3 ⟨0, 2, 0, 2⟩), (0xF0C00000, 0x50004000, .chain 6 ⟨2, 4, 0, 1⟩),
    (0xE6800000, 0x80004000, .stv 1 2 ⟨4, 0, 0, 1⟩)] : List (Nat × Nat × Instr)),
  decode x.1 x.2.1 = .instr x.2.2 := by decide

/-! ### States that meet the hypotheses of the statements, one theorem for each statement that has any -/

theorem test_witness_BitAndCompareResults :
    let s := st .K [(1, 5), (2, 0xFFFFFFFFFFFFFFFF)]
    s.g 0 = 0 ∧ s.g 1 ≠ 0 ∧ holdsOn .ltn (s.g 1) (s.g 2) ∧ ¬ holdsOn .lt (s.g 1) (s.g 2) := by
  refine ⟨by decide, by decide, ?_, ?_⟩ <;> unfold holdsOn <;> decide

theorem test_witness_ImmediateResults :
    let s := st .K [(1, 5)]
    holdsOn .ge (s.g 1) (BitVec.ofInt 64 (0x1FFF : BitVec 13).toInt) ∧ ¬ holdsOn .eq (s.g 1) (BitVec.ofInt 64 (0x1FFF : BitVec 13).toInt) ∧
    (60 : Fin 64).val + ((3 : Fin 64).val + 1) ≤ 64 := by
  refine ⟨?_, ?_, by decide⟩ <;> unfold holdsOn <;> decide

theorem test_witness_BranchResults :
    let s := st .K [(1, 5)]
    (Instr.bltn 0 1 0xFFFF, Cond.ltn) ∈ [(Instr.beq 0 1 0xFFFF, Cond.eq), (.bne 0 1 0xFFFF, .ne), (.blt 0 1 0xFFFF, .lt), (.bge 0 1 0xFFFF, .ge),
      (.bltn 0 1 0xFFFF, .ltn), (.bgen 0 1 0xFFFF, .gen)] ∧
    holdsOn .ltn (s.g 0) (s.g 1) ∧ ¬ holdsOn .ltn (s.g 1) (s.g 0) := by
  refine ⟨by decide, ?_, ?_⟩ <;> unfold holdsOn <;> decide

theorem canTrap_st : CanTrap (st .K []) := ⟨by decide, by decide, by decide, by decide⟩

theorem test_witness_JumpResults :
    let s := st .K [(1, 0x7FC), (2, 0x7FD)]
    (s.g 1).toNat % 4 = 0 ∧ (s.g 2).toNat % 4 ≠ 0 ∧ CanTrap s := by
  and_intros <;> first | decide | (constructor <;> decide)

/-- Room on the loop stack, a count and a body; and a ninth level. -/
theorem test_witness_LoopResults :
    let s := st .K [(1, 3)]
    let full := onSeq s fun y => { y with loops := List.replicate 8 ⟨4, 0x100, 2⟩ }
    (s.me.loops.length < 8 ∧ ∀ l ∈ s.me.loops.head?, (s.me.pc + 4 + BitVec.ofNat 64 (4 * 0xFFFF)).toNat ≤ l.stop.toNat) ∧ s.g 1 ≠ 0 ∧ s.g 0 = 0 ∧
    (s.me.pc + 4).toNat < (s.me.pc + 4 + BitVec.ofNat 64 (4 * 0xFFFF)).toNat ∧ ¬ full.me.loops.length < 8 ∧ CanTrap full := by
  and_intros <;> first | decide | (constructor <;> decide)

/-- Levels that end behind, at and beyond the next instruction, inside and outside of a handler. -/
theorem test_witness_LoopEndCheck :
    let s := onSeq (st .K []) fun y => { y with loops := [⟨0, 4, 2⟩] }
    let u := onSeq (st .K []) fun y => { y with loops := [⟨0, 4, 1⟩, ⟨0, 4, 2⟩] }
    let v := onSeq (st .K []) fun y => { y with loops := [⟨0, 8, 1⟩] }
    let h := onSeq s fun y => { y with cause := 0x80000000 }
    s.me.hnd = false ∧ (∃ l, s.me.loops = [l] ∧ l.stop.toNat ≤ (s.me.pc + 4).toNat ∧ 1 < l.remain.toNat) ∧
    (∃ l m, u.me.loops = [l, m] ∧ l.stop.toNat ≤ (u.me.pc + 4).toNat ∧ l.remain = 1 ∧ m.stop.toNat ≤ (u.me.pc + 4).toNat ∧ 1 < m.remain.toNat) ∧
    (∃ l, v.me.loops = [l] ∧ (v.me.pc + 4).toNat < l.stop.toNat ∧ l.remain = 1) ∧ h.me.hnd = true :=
  ⟨by decide, ⟨⟨0, 4, 2⟩, by decide, by decide, by decide⟩, ⟨⟨0, 4, 1⟩, ⟨0, 4, 2⟩, by decide, by decide, by decide, by decide, by decide⟩,
    ⟨⟨0, 8, 1⟩, by decide, by decide, by decide⟩, by decide⟩

/-- A load of the last 8 bytes of the first box, and an atomic at the last 8 of the second. -/
theorem test_witness_LoadResults :
    let s := st .L [(1, 0x8000), (2, 0xFFF8)]
    Granted s 1 .read (BitVec.ofInt 64 ((s.g 1).toInt + (0x1FF : BitVec 9).toInt * (8 : Nat))).toNat 8 0x7FF8 0 ∧ Readable s 0x7FF8 8 ∧
    Granted s 15 .atomic (s.g 2).toNat (2 ^ (3 : Fin 4).val) 0xFFF8 0 ∧ Readable s 0xFFF8 (2 ^ (3 : Fin 4).val) :=
  ⟨⟨by decide, by decide, false, rfl⟩, by unfold Readable; decide, ⟨by decide, by decide, false, rfl⟩, by unfold Readable; decide⟩

theorem test_witness_StoreResult :
    let s := st .S [(1, 0x100), (2, 0x0102030405060708)]
    Granted s 3 .write (BitVec.ofInt 64 ((s.g 1).toInt + (0x0FF : BitVec 9).toInt * (2 ^ (3 : Fin 4).val : Nat))).toNat 8 0x8F8 0 ∧
    Writable s 0x8F8 8 :=
  ⟨⟨by decide, by decide, false, rfl⟩, .inl (by unfold Readable; decide)⟩

/-- A byte of a bad granule can be written with the whole granule only. -/
theorem test_witness_whole_granule :
    let s := { st .S [] with mem := { (st .S []).mem with bad := [0x20] } }
    Writable s 0x100 8 ∧ ¬ Readable s 0x100 1 := ⟨.inr (by decide), by unfold Readable; decide⟩

theorem test_witness_AtomicResults :
    let s := st .K [(1, 0x8000), (2, 7)]
    Canonical s ∧ Readable s 0x8000 4 ∧ Granted s 0 .atomic (s.g 1).toNat (2 ^ (2 : Fin 4).val) 0x8000 0 ∧
    Granted s 0 .red (s.g 1).toNat (2 ^ (2 : Fin 4).val) 0x8000 0 ∧ atomicInt .minn 3 7 32 = some 3 ∧ atomicInt .fmax 3 7 32 = none :=
  ⟨⟨by decide, by decide, by decide, by decide, by decide⟩, by unfold Readable; decide, ⟨by decide, by decide, false, rfl⟩,
    ⟨by decide, by decide, false, rfl⟩, by decide, by decide⟩

theorem test_witness_MisalignedTraps :
    let s := st .K [(1, 0x101)]
    CanTrap s ∧ (BitVec.ofInt 64 ((s.g 1).toInt + (1 : BitVec 9).toInt * (8 : Nat))).toNat % 8 ≠ 0 ∧
    (BitVec.ofInt 64 ((s.g 1).toInt + (0x1FF : BitVec 9).toInt * (2 ^ (1 : Fin 4).val : Nat))).toNat % 2 ^ (1 : Fin 4).val ≠ 0 ∧
    (s.g 1).toNat % 2 ^ (2 : Fin 4).val ≠ 0 := by
  and_intros <;> first | decide | (constructor <;> decide)

theorem ok_of {α β : Type} (x : Except α β) (h : x.toOption.isSome = true) : ∃ u, x = .ok u := by
  cases x with
  | ok u => exact ⟨u, rfl⟩
  | error e => simp [Except.toOption] at h

def isOk {α : Type} : XR α → Bool
  | .ok .. => true
  | _ => false

theorem xr_of {α : Type} (x : XR α) (h : isOk x = true) : ∃ u v, x = .ok u v := by
  cases x with
  | ok u v => exact ⟨u, v, rfl⟩
  | _ => simp [isOk] at h

/-- The context has joined a job of ranks 0 and 1 as rank 0, with cell 0 its OWNER, and cell 0 has a peer's page cached at 0x10000. -/
def pod (s : State) : State :=
  let leaves := [tlbEntry 0 0 3 openLeaf.toNat, tlbEntry 0 0x10000 3 (openLeaf.toNat + 4 + 0x10000)]
  onCtx { s with mem := { s.mem with micro := s.mem.micro.set (0 : Fin 256) leaves } }
    fun x => { x with joined := true, rank := 0, job := 7, live := 3, isRoot := true, children := [1], step := 5, applied := 5, equota := 4096 }

/-- One record fits the share of 512 KiB that a context has (R224). -/
theorem record_fits (b : Bool) : (Config.recordBytes b).val ≤ 524288 := Nat.le_of_lt_succ (Config.recordBytes b).isLt

/-- A caravan that holds nothing takes a record of any context without quota windows. -/
theorem accept_first (s : State) (w : Agent) (va dst : Nat) (b : RecBody) (h : s.countQuota w dst (recAddrs b) = some s)
    (c : s.combines w false dst b = none) (e : s.fab.outRecs = []) : ∃ u, s.accept w va [(dst, false, b)] = .ok u := by
  refine ok_of _ ?_
  simp [State.accept, State.acceptOne, h, c, State.placeRecord, State.reservedUsed, State.bump, e, sumSizes, OutRec.size, record_fits, Except.toOption]

/-- The same where no single-bit error stands and no store is pending, so that nothing is corrected or performed first. -/
theorem accept_clean (s : State) (st : Fin 16) (l : List Nat) (w : Agent) (va dst : Nat) (b : RecBody) (h : s.mem.soft = []) (p : s.mem.pend = [])
    (q : s.countQuota w dst (recAddrs b) = some s) (c : s.combines w false dst b = none) (e : s.fab.outRecs = []) :
    ∃ u, ((s.performBefore (some st) []).correct l).accept w va [(dst, false, b)] = .ok u := by
  have hp : s.performBefore (some st) [] = s := by
    cases s with | mk _ _ _ _ _ mem => cases mem; subst p; rfl
  have hc : s.correct l = s := by simp [State.correct, h]
  rw [hp, hc]; exact accept_first s w va dst b q c e

/-- An MCST of 8 bytes to the peer's page, whose group 1 has rank 1 as its one live member. -/
def mcstState : State :=
  onCell ((onCtx (pod (st .S [(1, 0x10008), (2, 1), (3, 9)])) fun x => { x with mcbase := 0x20000 }).writeBytes [(0x20200, 2, 0)])
    fun x => { x with boxes := [⟨.A, 0, ⟨0x10000, 0x10000, 1, 1, #v[0x8000, 1, 1, 1], #v[1, 0, 0, 0]⟩, 0, #v[0, 0, 0, 0], #v[0x8000, 0, 0, 0]⟩] }

theorem test_witness_MulticastRecords :
    let s := mcstState
    let base := s.myCtx.mcbase.toNat + 512 * ((s.g 2).toNat % 256)
    ((s.g 1).toNat % 8 = 0 ∧ s.slotsFull = false ∧ inAperture (s.g 1).toNat = false ∧ s.myCtx.joined = true ∧
      s.footFault (s.seqAgent 2) .red none (s.g 1).toNat 8 = none ∧ base < 2 ^ 39 ∧
      (∀ i < 512, s.isBad (base + i) = false) ∧ s.mcMembers s.myCtx ((s.g 2).toNat % 256) = [1] ∧
      (∀ o ∈ s.fab.outRecs, o.tagged (s.seqAgent 2) false 1 = false) ∧
      ∀ i < 8, s.myCtx.quotaWin 1 s.myCtx.step ((s.g 1).toNat + i) = none) ∧
    s.mcLeaf (s.seqAgent 2) true (s.g 1).toNat = .ok s () ∧
    (∃ u, ((s.performBefore (some 2) []).correct ((List.range 512).map (base + ·))).accept (s.seqAgent 2) 0x10008
      [(1, false, .reduce 0x10008 8 .add 9)] = .ok u) ∧
    s.reservedUsed s.ctxIx + 1 * (Config.recordBytes (recIsStore (.reduce 0x10008 8 .add 9))).val ≤ 524288 := by
  intro s base
  refine ⟨by decide, rfl, accept_clean _ _ _ _ _ _ _ rfl rfl rfl rfl rfl, ?_⟩
  have e : s.reservedUsed s.ctxIx = 0 := by decide
  have := record_fits (recIsStore (.reduce 0x10008 8 .add 9))
  omega
/-- FENCE waits for nothing in a stream that its mask does not name. -/
theorem test_witness_PauseAndFence :
    let s := onSeq (st .K []) fun y => { y with pending := [⟨0, 1, 0, 0, 0, 0, 0, 3⟩] }
    s.me.pending ≠ [] ∧ (∀ p ∈ s.me.pending, (0xFFF7 : BitVec 16).getLsbD p.stream.val = false) ∧
    (∀ m ∈ s.cmds, m.owner = .seq s.cell s.role → (0xFFFF : BitVec 16).getLsbD m.stream.val = false) :=
  ⟨by decide, by decide, by decide⟩

/-- One token on the queue that TAKE's mask names, none on another, and a count of 255 on a queue that GIVE's mask names. -/
theorem test_witness_TokenMoves :
    let s := onCell (st .L []) fun x => { x with tokens := (x.tokens.set (tokenQueue .K .L) 1).set (tokenQueue .L .S) 255 }
    s.me.pending = [] ∧ s.me.held = 0 ∧ CanTrap s ∧ (∀ r, MaskNames s.role 1 r → 1 ≤ s.tokensOn r s.role) ∧
    (∃ r, MaskNames s.role 2 r ∧ s.tokensOn r s.role = 0) ∧ (∀ r, MaskNames s.role 3 r → s.tokensOn s.role r + s.reservedOn s.role r < 255) ∧
    (∃ r, MaskNames s.role 4 r ∧ 255 ≤ s.tokensOn s.role r + s.reservedOn s.role r) ∧ (∀ q, Turn.issue s.cell q ∉ s.agenda) := by
  unfold MaskNames
  have c : CanTrap (onCell (st .L []) fun x => { x with tokens := (x.tokens.set (tokenQueue .K .L) 1).set (tokenQueue .L .S) 255 }) := by
    constructor <;> decide
  refine ⟨by decide, by decide, c, fun r => ?_, ⟨.C, by decide⟩, fun r => ?_, ⟨.S, by decide⟩, fun q => ?_⟩
  all_goals first | (cases r <;> decide) | (cases q <;> decide)

theorem test_witness_TrapInstructions : CanTrap (st .K []) ∧ (st .K []).myCell.stopReq = false := ⟨canTrap_st, by decide⟩

/-- No handler address, and a handler that runs. -/
theorem test_witness_DoubleFaultAborts :
    let s := onSeq (st .K []) fun y => { y with tvec := 0 }
    let h := onSeq (st .K []) fun y => { y with cause := 0x80000000 }
    s.me.held = 0 ∧ s.me.status = .ready ∧ s.myCell.task = some State.reset.erg.nextStamp ∧ s.me.hnd = false ∧ s.me.tvec = 0 ∧
    h.me.held = 0 ∧ h.me.status = .ready ∧ h.myCell.task = some State.reset.erg.nextStamp ∧ h.me.hnd = true := by decide

/-- A command of sequencer S of cell 0 in stream 1. -/
def cmd (id : Nat) (eng : Eng) (op : CmdOp) (state : CmdState) (prog : Nat) : Cmd :=
  { id := id, eng := eng, unit := 0, owner := .seq 0 .S, stamp := State.reset.erg.nextStamp, ctx := 0, stream := 1, guard := 0, gives := 1
    step := 0, boxes := [box .RW 0, box .A 0x8000], op := op, state := state, prog := prog, stalled := 0 }

/-- A held STV that its handler restarts or discards, and a report that holds no command. -/
theorem test_witness_EretResults :
    let m := cmd 7 .drain (.stv 0 []) .faulted 0
    let s := onSeq { st .S [] with cmds := [m] } fun y => { y with reports := [some 7], cause := 0x80040004, pc := 0x40, epc := 8 }
    let u := onSeq { st .S [] with cmds := [m] } fun y => { y with reports := [some 7], cause := 0x80000004, pc := 0x40, epc := 8 }
    s.me.reports.head? = some (some 7) ∧ s.cmdOf 7 = some m ∧ m.op.resumable = true ∧ s.me.cause.getLsbD 18 = true ∧
    u.me.cause.getLsbD 18 = false ∧ m.owner = .seq u.cell u.role ∧ ((st .S []).me.reports.head?.join).bind (st .S []).cmdOf = none := by decide

/-- The fourth END, an earlier one, and one in a handler that holds a command. -/
theorem test_witness_EndResults :
    let s := st .S []
    let three : Cell → Cell := fun x => ((x.setSeq .K { x.seqOf .K with status := .ended }).setSeq .L { x.seqOf .L with status := .ended }).setSeq .C
      { x.seqOf .C with status := .ended }
    let u := onCell s three
    let m := cmd 7 .drain (.stv 0 []) .faulted 0
    let h := onSeq { s with cmds := [m] } fun y => { y with reports := [some 7], cause := 0x80000004 }
    (h.me.pending = [] ∧ h.me.reports = [some 7] ∧ h.cmdOf 7 = some m ∧ m.owner = .seq h.cell h.role ∧ (h.seqAt h.cell .K).status ≠ .ended) ∧
    s.me.pending = [] ∧ s.me.reports = [] ∧ (∃ q, q ≠ s.role ∧ (s.seqAt s.cell q).status ≠ .ended) ∧
    (∀ q, q ≠ u.role → (u.seqAt u.cell q).status = .ended) ∧ u.me.pending = [] ∧ u.me.reports = [] ∧
    u.myCell.task = some State.reset.erg.nextStamp ∧ ∃ k, u.taskOf State.reset.erg.nextStamp = some k ∧ k.state = .running := by
  intro s three u m h
  have k : ∀ q, q ≠ u.role → (u.seqAt u.cell q).status = .ended := fun q => by cases q <;> decide
  have t : ∃ k, u.taskOf State.reset.erg.nextStamp = some k ∧ k.state = .running := ⟨loadedTask State.reset.erg.nextStamp, by decide⟩
  have o : ∃ q, q ≠ s.role ∧ (s.seqAt s.cell q).status ≠ .ended := ⟨.K, by decide⟩
  and_intros <;> first | decide | assumption

theorem test_witness_SpecialRegisterReads :
    let s := { st .C [] with cmds := [cmd 1 .chain (.chain 0 0 0 0 0 0) .faulted 0] }
    s.role = .C ∧ (∀ m ∈ s.cmds, m.eng = .chain → m.unit = s.cell.val → m.state = .faulted) := by decide

theorem test_witness_SpecialRegisterWrites :
    let s := st .C []
    s.role = .C ∧ (∀ m ∈ s.cmds, m.eng = .chain → m.unit = s.cell.val → m.state = .faulted) ∧
    Spr.cause ∈ [Spr.wintmo, .cause, .epc, .eval, .tvec, .esave] ∧ Spr.vl ∈ [Spr.fpctl, .fpflg, .vl, .accp] ∧
    Spr.eprog ∈ [Spr.seq, .cell, .cluster, .rank, .ctx, .ticket, .step, .cycle, .eprog] := by decide

theorem test_witness_RoleTraps : legalOn (.lda 0 ⟨0, 0, 0, 0⟩) (st .K []).role = false ∧ CanTrap (st .K []) := ⟨by decide, canTrap_st⟩

/-- Two pending faults: a FENCE of stream 3 reports the second. -/
theorem test_witness_PendingFaultFirst :
    let p : PendFault := ⟨5, 4, 2, 1, 0x1000, 9, 0, 1⟩
    let r : PendFault := ⟨6, 4, 2, 1, 0x2000, 9, 0, 3⟩
    let s := onSeq (st .K []) fun y => { y with pending := [p, r] }
    CanTrap s ∧ s.me.pending.head? = some p ∧ s.me.pending.find? (fun p => (0x0008 : BitVec 16).getLsbD p.stream.val) = some r ∧
    Instr.endSeq ∈ [Instr.take 0, .fwait 0 1 1 .eq true, .fget 0 1, .bwait 0 1 1 true, .swait 0 1 true, .endSeq] :=
  ⟨by constructor <;> decide, by decide, by decide, by decide⟩

/-- Flag 1 of the device page holds 9. The last word of the cell pages, an address that is no word and one off the pages. -/
def flagged (gs : List (Reg × Word)) : State :=
  let s := st .K ([(1, 0xFFFFFF0000000004), (2, 9)] ++ gs)
  { s with mem := { s.mem with flags := [(flagKey 0 0xFFFFFF0000000004, 9)] } }

theorem flagged_canonical : Canonical (flagged []) := by constructor <;> decide

theorem test_witness_FlagResults :
    let s := flagged [(3, 0xFFFFFF00000BFFFC), (4, 0xFFFFFF00000C0000), (5, 0xFFFFFF0000000006), (6, 255), (7, 256)]
    Canonical s ∧ (s.g 1).toNat % 4 = 0 ∧ OnFlagPage (s.g 1) ∧ OnFlagPage (s.g 3) ∧ ¬ OnFlagPage (s.g 4) ∧ (s.g 5).toNat % 4 ≠ 0 ∧
    s.me.pending = [] ∧ s.me.latch = none ∧ s.flagAt s.ctxIx (s.g 1).toNat = 9 ∧ CanTrap s ∧ s.me.wintmo ≠ 0 ∧
    ¬ IsBarrierWord s s.ctxIx (s.g 1).toNat ∧ (s.g 6).toNat ≤ 255 ∧ 255 < (s.g 7).toNat ∧
    (onSeq s fun y => { y with wintmo := 0, latch := some 4 }).me.wintmo = 0 := by
  unfold OnFlagPage IsBarrierWord
  and_intros <;> first | decide | (constructor <;> decide)

/-- An object of scope 2 with EXP 4, two arrivals and phase 3; beside it no object. Values that BINIT takes and refuses, arrivals below, at
and above the count, and phases passed, not passed and long past. -/
def barred (w1 : BitVec 32) : State :=
  let s := st .K [(1, 0xFFFFFF0000000010), (2, 0x0000000A00020004), (3, 0), (4, 1), (5, 2), (6, 3), (7, 256), (8, 11), (9, 0xFFFFFF0000000020)]
  { s with mem := { s.mem with
      flags := [(flagKey 0 0xFFFFFF0000000010, 0x00020004), (flagKey 0 0xFFFFFF0000000014, w1)], objs := [flagKey 0 0xFFFFFF0000000010] } }

theorem test_witness_BarrierResults :
    let s := barred 0x00000083
    let u := barred 0x00010083
    let n := (s.g 1).toNat
    let v := (s.g 2).toNat
    Canonical s ∧ n % 16 = 0 ∧ OnFlagPage (s.g 1) ∧ s.isObj 0 n = true ∧ s.isObj 0 (s.g 9).toNat = false ∧ (s.g 3).toNat % 2 ^ 16 = 0 ∧
    v % 2 ^ 16 ≠ 0 ∧ v / 2 ^ 18 % 2 ^ 14 = 0 ∧ s.scopeOk 0 n (v / 2 ^ 16 % 4) = true ∧
    (u.flagAt 0 (n + 4)).toNat / 2 ^ 16 ≠ 0 ∧ (s.flagAt 0 (n + 4)).toNat / 2 ^ 16 = 0 ∧ (s.flagAt 0 n).toNat % 2 ^ 16 = 4 ∧
    (s.flagAt 0 n).toNat / 2 ^ 16 = 2 ∧ (s.flagAt 0 (n + 4)).toNat / 2 ^ 6 % 4 = 2 ∧ s.scopeOk 0 n 2 = true ∧
    2 + (s.g 4).toNat < 4 ∧ 2 + (s.g 5).toNat = 4 ∧ 4 < 2 + (s.g 6).toNat ∧ 255 < (s.g 7).toNat ∧ s.me.pending = [] ∧ s.me.latch = none ∧
    (3 + 16 - (s.g 5).toNat % 16) % 16 = 1 ∧ (3 + 16 - (s.g 6).toNat % 16) % 16 = 0 ∧ (3 + 16 - (s.g 8).toNat % 16) % 16 = 8 ∧ CanTrap s := by
  unfold OnFlagPage
  and_intros <;> first | decide | (constructor <;> decide)

/-- Link 2 is up and leads to rank 1. -/
def linked (s : State) : State :=
  { s with fab := { s.fab with routes := s.fab.routes.set 1 0x82, linkUp := s.fab.linkUp.set (2 : Fin 36) true } }

/-- A record and a descriptor that can be read, a misaligned one of each, and a destination of the job on a live link. -/
theorem test_witness_TaskPosting :
    let s := linked (pod (st .K [(1, 0x200), (2, 0x40), (3, 0x10000 + 1), (4, 0x300), (5, 0x180), (6, 0x20)]))
    (s.g 1).toNat % 256 = 0 ∧ (∃ bs, Captured s (s.g 1).toNat 256 bs) ∧ (s.g 2).toNat % 64 = 0 ∧ (∃ bs, Captured s (s.g 2).toNat 64 bs) ∧
    CanTrap s ∧ (s.g 5).toNat % 256 ≠ 0 ∧ (s.g 6).toNat % 64 ≠ 0 ∧ (s.g 4).toNat % 8 = 0 ∧
    (∃ g, s.planAccess (s.seqAgent 0) .write none (s.g 4).toNat 8 = .ok s g) ∧ s.myCtx.joined = true ∧ (s.g 3).toNat / 2 ^ 32 = 0 ∧
    (s.g 3).toNat / 2 ^ 12 % 2 ^ 4 = 0 ∧ Routed s (s.myCtx.packet .request ((s.g 3).toNat % 2 ^ 12) (seqAgentId s.cell s.role 0) (.post 0 true [])) :=
  ⟨by decide, ⟨_, by decide, 0x200, 0, false, rfl, by decide, rfl⟩, by decide, ⟨_, by decide, 0x40, 0, false, rfl, by decide, rfl⟩,
    by constructor <;> decide, by decide, by decide, by decide, ⟨_, rfl⟩, by unfold Routed; decide⟩

/-- The running task's ticket, one that ended abnormally, one at and one above the watermark, and one never received. -/
theorem test_witness_TicketStates :
    let s0 := st .K []
    let s := { s0 with erg := { s0.erg with issuers := [(3, 1), (4, 1), (5, 1), (9, 2)] ++ s0.erg.issuers, abEnds := [⟨3, 0, true⟩], watermark := 4 } }
    let n := State.reset.erg.nextStamp
    smGet 0 n s0.erg.issuers = s0.ctxIx.val + 1 ∧ (s0.taskOf n).isSome = true ∧ smGet 0 3 s.erg.issuers = s.ctxIx.val + 1 ∧ s.taskOf 3 = none ∧
    s.erg.abEnds.find? (·.stamp == 3) = some ⟨3, 0, true⟩ ∧ s.taskOf 4 = none ∧ s.erg.abEnds.find? (·.stamp == 4) = none ∧ 4 ≤ s.erg.watermark ∧
    s.taskOf 5 = none ∧ ¬ 5 ≤ s.erg.watermark ∧ smGet 0 9 s.erg.issuers ≠ s.ctxIx.val + 1 := by decide

def win (id : Nat) (fromStep : BitVec 32) : WinDef := ⟨0, id, 0x1000, 0x400, 0, 4095, 0x400, 0, fromStep⟩

/-- OWNER and another cell, not joined, as far ahead as LEAD allows and further, a window in force and one pending, and a conflict. -/
theorem test_witness_StepChanges :
    let s := onCtx (pod (st .K [(1, 3), (2, 64), (3, 2), (4, 0x100), (5, 0x110), (6, 63)])) fun x => { x with wins := [win 3 1, win 5 9] }
    let x := s.myCtx
    let ahead := onCtx s fun x => { x with applied := 4, lead := 1 }
    let far := onCtx s fun x => { x with applied := 3, lead := 1 }
    let bad := onCtx s fun x => { x with conflicts := [(4, 0x1008)] }
    let later := { s with role := .C, agenda := [.late 0 .L] }
    (∃ q ∈ later.agenda, q.beforeSeal later.cell later.role = true) ∧ (∀ q ∈ s.agenda, q.beforeSeal s.cell s.role = false) ∧ ¬ ConflictDue s ∧ s.cell.val = x.owner ∧ { s with cell := 1 }.cell.val ≠ x.owner ∧
    (st .K []).myCtx.joined = false ∧ x.joined = true ∧ ComesBefore far.myCtx.applied (far.myCtx.step - BitVec.ofNat 32 far.myCtx.lead) ∧
    ¬ ComesBefore ahead.myCtx.applied (ahead.myCtx.step - BitVec.ofNat 32 ahead.myCtx.lead) ∧ 63 < (s.g 2).toNat ∧ (s.g 6).toNat ≤ 63 ∧
    (s.g 3).toNat ≤ 2 ∧ x.pendingDef 5 ≠ none ∧ x.pendingDef 3 = none ∧ x.inForce 3 = some (win 3 1) ∧ x.inForce 7 = none ∧ x.pendingDef 7 = none ∧
    CanTrap s ∧ (s.g 5).toNat % 32 ≠ 0 ∧ Granted s 0 .read (s.g 4).toNat 32 0x100 0 ∧ Readable s 0x100 32 ∧
    x.iwdefStatus 3 (List.replicate 32 0) = 0 ∧ x.iwdefStatus 7 (List.replicate 32 0) ≠ 0 ∧ ConflictDue bad ∧ bad.myCtx.conflicts = [(4, 0x1008)] ∧
    bad.me.pending = [] := by
  unfold ConflictDue ComesBefore Readable
  and_intros <;> first | decide | exact ⟨by decide, by decide, false, rfl⟩ | (constructor <;> decide)

/-- Step 5 runs. Of the steps before it 4 is sealed and unsent, 3 complete, 2 without a record, 1 incomplete; 5 is not sealed, and −12 is 17
steps back. Boundaries before 3 have been applied. -/
theorem test_witness_StepWaits :
    let s := onCtx (pod (st .K [(1, 4), (2, 3), (3, 2), (4, 1), (5, 5), (6, 0xFFFFFFF4), (7, 0xFFFF), (8, 4095), (9, 4096)])) fun x => { x with
      applied := 3, sealJobs := [⟨4, false, []⟩]
      records := [⟨3, [⟨1, 8, 0, some ⟨0, 0, 0⟩⟩], true, some 0⟩, ⟨1, [], false, none⟩] }
    let x := s.myCtx
    ¬ ConflictDue s ∧ x.joined = true ∧ ComesBefore 4 x.step ∧ ¬ ComesBefore 5 x.step ∧ 16 < (x.step - 0xFFFFFFF4).toNat ∧
    (x.step - 4).toNat ≤ 16 ∧ (∃ j ∈ x.sealJobs, j.step = 4 ∧ j.sent = false) ∧ (∀ j ∈ x.sealJobs, j.step = 3 → j.sent = true) ∧
    x.records.find? (·.step == 2) = none ∧ (∃ v, x.records.find? (·.step == 1) = some v ∧ v.complete = false) ∧
    (∃ v, x.records.find? (·.step == 3) = some v ∧ v.complete = true ∧ v.dests.find? (·.rank == 4095) = none ∧
      v.dests.find? (·.rank == 1) ≠ none) ∧
    4096 ≤ (s.g 9).toNat ∧ (s.g 9).toNat ≤ 0xFFFE ∧ ¬ (4096 ≤ (s.g 8).toNat) ∧ (s.g 7).toNat = 0xFFFF ∧ s.me.pending = [] ∧ s.me.latch = none ∧
    ComesBefore 2 x.applied ∧ ¬ ComesBefore 3 x.applied ∧ ComesBefore 3 x.step ∧ s.me.wintmo ≠ 0 ∧ CanTrap s ∧
    (onSeq s fun y => { y with wintmo := 0 }).me.wintmo = 0 := by
  unfold ConflictDue ComesBefore
  and_intros <;> first | decide | exact ⟨_, rfl, by decide⟩ | (constructor <;> decide)

theorem reads_regs {s : State} {c k : Nat} {out : List VReg} (e : (s.myCell.v.toList.drop c).take k = out) (fit : k = 1 ∨ c % k = 0)
    (h : c + k ≤ 24) : Reads s c k out := e ▸ .regs fit h

/-- VL 128, entries in ld1 and room in sd1, and an accumulator row whose fragment can be read. -/
def vec : State :=
  onCell (st .C [(1, 5), (2, 1025)]) fun x => { x with
    vl := 128, dq := (x.dq.set 1 [⟨0, some 1⟩, ⟨0, some 2⟩]).set 3 (List.replicate 7 ⟨0, some 0⟩), accp := 3
    v := x.v.set 20 (BitVec.ofNat 4096 (0x100 + 2 ^ 800)) }

theorem vec_fragment : FragmentReady vec := ⟨by decide, by decide, by decide⟩

/-- A register, a queue and a fragment as sources, a register and a queue as destinations, at full length. -/
theorem test_witness_VectorArithmetic :
    vec.role = .C ∧ Reads vec 23 1 [0] ∧ Reads vec 25 1 [1] ∧ Reads vec 29 1 [0] ∧ Takes vec 23 1 ∧ Takes vec 25 1 ∧
    vec.myCell.vl.toNat * tyBits 12 ≤ 4096 ∧ vec.myCell.vl.toNat * tyBits 7 ≤ 4096 ∧ (0 : Fin 32) = 0 := by
  refine ⟨by decide, reads_regs (by decide) (.inl rfl) (by decide), .queue 1 (by decide) (by decide) _ (by decide) (by decide), ?_,
    .regs (.inl rfl) (by decide), .queue 3 (by decide) (by decide) (by decide), by decide, by decide, rfl⟩
  have := Reads.frag (s := vec) (c := 29) (k := 1) (.inr rfl) rfl vec_fragment
  rwa [show (vec.accRow vec.cell (vec.myCell.accp.toNat / 2)).extractLsb' (4096 * (vec.myCell.accp.toNat % 2)) 4096 = 0 by decide] at this

/-- Elements of every kind, a length in whole blocks of 16, and a partition state of one class whose list lies in the first box. -/
theorem test_witness_VectorMoves :
    let p := onCell vec fun x => { x with vl := 1 }
    vec.role = .C ∧ Takes vec 23 1 ∧ Reads vec 22 1 [0] ∧ vec.myCell.vl.toNat ≤ 256 ∧ vec.myCell.vl.toNat ≤ vlMax 13 ∧
    vec.myCell.vl.toNat % 16 = 0 ∧ holdsOn .eq 0 0 ∧
    (∃ a, Reads p 20 1 [a] ∧ partValid a p.myCell.boxes.length = true ∧ p.slotsFull = false ∧
      ∃ u, p.partStores (partByte a 101 1) (partRun a ((List.range p.myCell.vl.toNat).map fun i => elemOf (tyBits 3) 0 i)).stores.reverse = .ok u () ∧
        Takes u 23 1) := by
  refine ⟨by decide, .regs (.inl rfl) (by decide), reads_regs (by decide) (.inl rfl) (by decide), by decide, by decide, by decide, rfl,
    BitVec.ofNat 4096 (0x100 + 2 ^ 800), ?_, by decide, by decide, _, rfl, .regs (.inl rfl) (by decide)⟩
  exact reads_regs (by decide) (.inl rfl) (by decide)

/-- Every ratio of widths that a conversion takes, a group of four as source, and lengths at their limits. -/
theorem test_witness_VectorConversions :
    let s := onCell vec fun x => { x with vl := 512 }
    s.role = .C ∧ (0 : Fin 32) = 0 ∧ convPair 12 6 false = true ∧ convWidth 12 = convWidth 6 ∧ convPair 10 12 false = true ∧
    convWidth 12 = 2 * convWidth 10 ∧ convPair 2 12 false = true ∧ convWidth 12 = 4 * convWidth 2 ∧ convPair 12 8 true = true ∧
    convWidth 12 = 4 * convWidth 8 ∧ Reads s 16 4 [0, 0, 0, 0] ∧ Takes s 8 4 ∧ s.myCell.vl.toNat ≤ 4 * vlMax 12 ∧ s.myCell.vl.toNat ≤ 1 * vlMax 8 ∧
    s.myCell.vl.toNat % 16 = 0 ∧ redType .xor 12 = true ∧ redType .add 4 = true ∧ vec.myCell.vl.toNat ≤ 128 ∧ 1 ≤ vec.myCell.vl.toNat := by
  and_intros <;> first | decide | exact reads_regs (by decide) (.inr (by decide)) (by decide) | exact .regs (.inr (by decide)) (by decide)

/-- Sources as of `VectorArithmetic`, the last slot of two, an address that both kinds of access may touch and one that is misaligned. -/
theorem test_witness_MomentOps :
    let s := onCell (st .C [(1, 0x7FF0), (2, 8)]) fun x => { x with vl := 128 }
    s.role = .C ∧ s.myCell.vl.toNat * tyBits 12 ≤ 4096 ∧ Reads s 0 1 [0] ∧ s.myCell.vl.toNat ≤ 128 ∧ Takes s 23 1 ∧ 0 < s.myCell.boxes.length ∧
    CanTrap s ∧ (s.g 2).toNat % 16 ≠ 0 ∧ (s.g 1).toNat % 16 = 0 ∧ s.slotsFull = false ∧ Readable s 0x7FF0 16 ∧
    GrantedIn s 0 (some 0) .read (s.g 1).toNat 16 0x7FF0 0 ∧ GrantedIn s 0 (some 0) .write (s.g 1).toNat 16 0x7FF0 0 := by
  unfold Readable
  and_intros <;> first | decide | exact ⟨false, rfl⟩ | exact reads_regs (by decide) (.inl rfl) (by decide) | exact .regs (.inl rfl) (by decide) | (constructor <;> decide)

/-- A table of `c0` chunks of `chunk` bytes, one after the other from `base` on. -/
def tab (base chunk c0 ty : Nat) : AgImage :=
  BitVec.ofNat 512 (base + (chunk + ty * 2 ^ 16) * 2 ^ 64 + (c0 + 2 ^ 16 + 2 ^ 32 + 2 ^ 48 + 2 ^ 64 + 2 ^ 80) * 2 ^ 128 + chunk * 2 ^ 256)

/-- `n` bytes of `v` stand in memory from `a` on. -/
def put (s : State) (a n v : Nat) : State := s.writeBytes ((List.range n).map fun i => (a + i, BitVec.ofNat 8 (v / 2 ^ (8 * i)), 0))

/-- Rows 14 and 15 lie in the region of 16 rows, row 16 does not; the format queue has room or none; a valid table and 64 zero bytes. -/
theorem test_witness_TileOps :
    let s := put (st .C [(1, 14), (2, 2), (3, 3), (4, 0), (5, 2048)]) 0x100 64 (tab 0x1000 72 256 3).toNat
    let k := { s with role := .K }
    let full := onCell k fun x => { x with fmtq := List.replicate 16 0 }
    let l := put (st .L [(3, 3)]) 0x100 64 (tab 0x1000 72 256 3).toNat
    s.role = .C ∧ (s.g 4).toNat < 1 ∧ 2048 < (s.g 1).toNat + (s.g 5).toNat ∧ CanTrap s ∧ Canonical s ∧
    (s.myCell.accFirst ≤ (s.g 1).toNat ∧ (s.g 1).toNat + (s.g 2).toNat ≤ s.myCell.accEnd) ∧ (∀ i < 2, s.rowBusy s.cell (14 + i) = false) ∧
    s.myCell.accEnd ≤ 14 + 2 ∧ (∀ j < 2, s.myCell.accFirst ≤ 14 + j ∧ 14 + j < s.myCell.accEnd) ∧ k.myCell.fmtq.length < 16 ∧
    16 ≤ full.myCell.fmtq.length ∧ l.role ≠ .C ∧ Readable l 0x100 64 ∧ GrantedIn l 0 none .read 0x100 64 0x100 0 ∧
    GrantedIn l 0 none .write 0x100 64 0x100 0 ∧ l.slotsFull = false ∧ valueAt (SeenBy l 0 0x100 64) 0x100 64 0 = (tab 0x1000 72 256 3).toNat ∧
    agValid (tab 0x1000 72 256 3) l.myCell.boxes.length = true ∧ agValid 0 l.myCell.boxes.length = false ∧ CanTrap l ∧ (l.g 3).toNat % 64 ≠ 0 := by
  unfold Readable
  and_intros <;> first | decide | exact ⟨false, rfl⟩ | (constructor <;> decide)

/-- A collective descriptor of a team of two, with program, team and base at 0x200, 0x400 and 0x800, DONE 5, TAG 9 and the given trigger. -/
def coll (trig : Nat) : AgImage :=
  BitVec.ofNat 512 (0x200 + 0x400 * 2 ^ 64 + 0x800 * 2 ^ 128 + (trig + 5 * 2 ^ 16 + 2 * 2 ^ 32) * 2 ^ 384 + (9 * 2 ^ 16 + 2 ^ 32) * 2 ^ 448)

/-- Entry 15 free, entry 3 the context's own and entry 4 another context's; a descriptor that arms and one that does not. -/
theorem test_witness_ArmingResults :
    let s0 := put (put (st .K [(1, 0x100), (2, 15), (3, 259), (4, 0x203), (5, 0x110), (6, 0x140)]) 0x100 64 (coll 7).toNat) 0x140 64 (coll 0).toNat
    let s := (s0.setEntry 0 3 (some ⟨0, coll 7, 0, 0, false, false⟩)).setEntry 0 4 (some ⟨1, coll 7, 0, 0, false, false⟩)
    s.role = .K ∧ dieOf s.cell = 0 ∧ (s.g 4).toNat / 2 ^ 9 ≠ 0 ∧ (s.g 3).toNat = (3 : Fin 16).val + 2 ^ 8 ∧
    (∃ x, s.col.entries[0][3] = some x ∧ x.ctx = s.ctxIx) ∧ (∃ x, s.col.entries[0][4] = some x ∧ x.ctx ≠ s.ctxIx) ∧ (s.g 2).toNat = (15 : Fin 16).val ∧
    s.col.entries[0][15] = none ∧ CanTrap s ∧ s.slotsFull = false ∧ (s.g 5).toNat % 64 ≠ 0 ∧ (s.g 1).toNat % 64 = 0 ∧ GrantedIn s 0 none .read 0x100 64 0x100 0 ∧
    Readable s 0x100 64 ∧ collValid (BitVec.ofNat 512 (valueAt (SeenBy s 0 0x100 64) 0x100 64 0)) true = true ∧
    collValid (BitVec.ofNat 512 (valueAt (SeenBy s 0 0x140 64) 0x140 64 0)) true = false ∧ GrantedIn s 0 none .read (s.g 6).toNat 64 0x140 0 := by
  unfold Readable
  and_intros <;> first | decide | exact ⟨_, rfl, by decide⟩ | exact ⟨false, rfl⟩ | (constructor <;> decide)

/-- A token on each queue that the take names and room on each that the give names. -/
theorem canIssue_of {s : State} {eng : Eng} {e : EngWord}
    (h : (s.me.pending = [] ∧ s.me.held = 0 ∧ s.queueLen eng (unitOf eng s.cell) < 16) ∧ ∀ r ∈ [Role.K, .L, .C, .S],
      ((∃ i : Fin 3, (otherRoles s.role)[i.val]? = some r ∧ e.take.getLsbD i.val = true) → 1 ≤ s.tokensOn r s.role) ∧
      ((∃ i : Fin 3, (otherRoles s.role)[i.val]? = some r ∧ e.give.getLsbD i.val = true) → s.tokensOn s.role r + s.reservedOn s.role r < 255)) :
    CanIssue eng e s :=
  { pending := h.1.1, held := h.1.2.1, room := h.1.2.2
    takes := fun r => (h.2 r (by cases r <;> decide)).1, gives := fun r => (h.2 r (by cases r <;> decide)).2 }

/-- A descriptor in the clear at an aligned address. -/
theorem described_of {s : State} {r : Reg} {e : EngWord} {d : AgImage} (key : Nat) (g : GrantedIn s e.st none .read (s.g r).toNat 64 key 0)
    (h : (s.g r).toNat % 64 = 0 ∧ s.slotsFull = false ∧ (∀ i < 64, s.isBad (key + i) = false) ∧
      d = BitVec.ofNat 512 (valueAt (SeenBy s e.st key 64) key 64 0)) : Described s r e d :=
  ⟨h.1, h.2.1, key, 0, g, h.2.2.1, h.2.2.2⟩

/-- Tables of 256 rows of 72 bytes, of 4,096 bytes, and of 20 bytes; none in slot 7. Queues of the sequencer hold one token each. -/
def eng (q : Role) (gs : List (Reg × Word)) : State :=
  onCell (st q gs) fun x => { x with
    ag := ((((x.ag.set 1 (tab 0x100 72 256 3)).set 2 (tab 0x200 4096 1 3)).set 3 (tab 0x300 4 5 3)).set 4 (tab 0x400 4 8 12)).set 5 (tab 0x500 4 8 12)
    tokens := Vector.replicate 12 1
    dq := (x.dq.set 1 (List.replicate 0 ⟨0, none⟩)).set 3 [⟨0, some 7⟩] }

/-- Tables of every size that the commands take and do not take, queues with room and without, element types at the ends of their range. -/
theorem test_witness_LoadCommands :
    let s := eng .L []
    let x := s.myCell
    let full := onCell s fun x => { x with dq := x.dq.set 1 (List.replicate 1 ⟨0, none⟩) }
    s.role = .L ∧ CanIssue .load ⟨7, 7, 0, 2⟩ s ∧ CanTrap s ∧ x.ag[1] ≠ 0 ∧ x.ag[7] = 0 ∧ agBytes x.ag[1] % 72 = 0 ∧ 72 ≤ agBytes x.ag[1] ∧
    agBytes x.ag[1] = 18432 ∧ agBytes x.ag[2] = 4096 ∧ x.dq[1].length + (4096 + 511) / 512 ≤ 8 ∧ agBytes x.ag[3] % 4 = 0 ∧ agBytes x.ag[3] % 72 ≠ 0 ∧
    1 ≤ agBytes x.ag[3] / 4 * (tyBits 12 / 8) ∧ agBytes x.ag[3] / 4 * (tyBits 12 / 8) ≤ 4096 ∧ 4096 < agBytes x.ag[1] / 4 * (tyBits 12 / 8) ∧
    agBytes (1 : AgImage) = 0 ∧ CanIssue .load ⟨1, 0, 0, 2⟩ full ∧ 8 < full.myCell.dq[1].length + (4096 + 511) / 512 := by
  and_intros <;> first | decide | exact canIssue_of (by decide) | (constructor <;> decide)
/-- A chain of one addition over eight f32 elements from table 4 to table 5; an NMV whose vectors lie in the vault window, and one whose
first vector lies below it. -/
def chainDesc : AgImage := BitVec.ofNat 512 (0x001CC504 + 0x0200 * 2 ^ 64)

def nmvDesc (x : Nat) : AgImage :=
  BitVec.ofNat 512 (x * 2 ^ 64 + 0x40001000 * 2 ^ 128 + (2 + 64 * 2 ^ 32 + 8 * 2 ^ 52 + 11 * 2 ^ 56) * 2 ^ 192)

/-- Rows that end at the region's last row and one beyond it, 256 and 257 rows under KEEP, groups of two rows, a format word that is not one,
none while K runs and none once it has ended. -/
theorem test_witness_MatrixCommands :
    let s := onCell (eng .C [(1, 12), (2, 4), (3, 2049), (4, 13), (5, 256), (6, 257), (7, 3), (8, 0)]) fun x => { x with fmtq := [0x1DD, 0x80] }
    let x := s.myCell
    let bad := onCell s fun x => { x with fmtq := [0x80] }
    let odd := onCell s fun x => { x with ringHead := 1 }
    let none := onCell s fun x => { x with fmtq := [] }
    let out := onCell none fun x => x.setSeq .K { x.seqOf .K with status := .ended }
    let wide := onCell s fun x => { x with accEnd := 2048 }
    (s.role = .C ∧ CanIssue .matrix ⟨1, 4, 0, 2⟩ s ∧ CanTrap s ∧ (1 ≤ (s.g 2).toNat ∧ (s.g 1).toNat + (s.g 2).toNat ≤ 2048 ∧
      x.accFirst ≤ (s.g 1).toNat ∧ (s.g 1).toNat + (s.g 2).toNat ≤ x.accEnd) ∧ 12 + 256 ≤ wide.myCell.accEnd ∧ 2048 < (s.g 3).toNat ∧
      (s.g 8).toNat < 1 ∧ (s.g 6).toNat = 257 ∧ (13 + 3 = x.accEnd ∧ ∀ j < 3, x.accFirst ≤ 13 + j ∧ 13 + j < x.accEnd)) ∧
    (x.fmtq = [0x1DD, 0x80] ∧ fmtValid 0x1DD = true ∧ x.ringHead % 2 ^ ((0x1DD : Word).toNat / 2 ^ 8 % 2 ^ 3) = 0 ∧
      (s.g 2).toNat % 2 ^ ((0x1DD : Word).toNat / 2 ^ 8 % 2 ^ 3) = 0 ∧ (s.g 7).toNat % 2 ^ ((0x1DD : Word).toNat / 2 ^ 8 % 2 ^ 3) ≠ 0 ∧
      odd.myCell.ringHead % 2 ^ ((0x1DD : Word).toNat / 2 ^ 8 % 2 ^ 3) ≠ 0) ∧
    bad.myCell.fmtq = [0x80] ∧ fmtValid 0x80 = false ∧ CanIssue .matrix ⟨1, 4, 0, 2⟩ none ∧ none.myCell.fmtq = [] ∧
    (none.myCell.seqOf .K).status ≠ .ended ∧ CanIssue .matrix ⟨1, 4, 0, 2⟩ out ∧ out.myCell.fmtq = [] ∧ (out.myCell.seqOf .K).status = .ended ∧ CanTrap out := by
  and_intros <;> first | decide | exact canIssue_of (by decide) | (constructor <;> decide)

/-- Tables that hold what a DRAIN of four rows writes, plain and with moments, and tables that do not; whole groups and parts of one. -/
theorem test_witness_Drains :
    let s := onCell (eng .S [(1, 12), (2, 4), (3, 3)]) fun x => { x with ag := (x.ag.set 1 (tab 0x1000 1024 4 12)).set 2 (tab 0x2000 16 4 12) }
    let x := s.myCell
    s.role = .S ∧ CanIssue .drain ⟨1, 4, 0, 2⟩ s ∧ CanTrap s ∧ drainTypeOk 12 false 0 = true ∧ drainTypeOk 13 false 2 = true ∧
    drainTypeOk 13 true 2 = false ∧ drainTypeOk 7 false 0 = false ∧ (s.g 2).toNat % 2 ^ 2 = 0 ∧ (s.g 3).toNat % 2 ^ 2 ≠ 0 ∧ x.ag[1] ≠ 0 ∧ x.ag[7] = 0 ∧
    agBytes x.ag[1] = (s.g 2).toNat * drainBytes 12 ∧ x.ag[2] ≠ 0 ∧ agBytes x.ag[2] = 16 * (s.g 2).toNat ∧
    agBytes x.ag[1] ≠ (s.g 3).toNat * drainBytes 12 ∧ agBytes x.ag[1] ≠ 16 * (s.g 2).toNat := by
  and_intros <;> first | decide | exact canIssue_of (by decide) | (constructor <;> decide)

/-- Three chain descriptors in memory. -/
def chains : State := put (put (put (eng .C [(3, 0x100), (4, 0x140), (5, 0x180), (6, 0x120)]) 0x100 64 chainDesc.toNat) 0x140 64 (chainDesc.toNat + 0x200)) 0x180 64 1

theorem test_witness_Described_chains :
    Described chains 3 ⟨1, 4, 0, 2⟩ chainDesc ∧ Described chains 4 ⟨1, 4, 0, 2⟩ (BitVec.ofNat 512 (chainDesc.toNat + 0x200)) ∧
    Described chains 5 ⟨1, 4, 0, 2⟩ 1 :=
  ⟨described_of 0x100 ⟨false, rfl⟩ (by decide), described_of 0x140 ⟨false, rfl⟩ (by decide), described_of 0x180 ⟨false, rfl⟩ (by decide)⟩

/-- A descriptor whose tables are latched, one whose table AGD is all zero, and one that is no descriptor. -/
theorem test_witness_Chains :
    let s := chains
    let x := s.myCell
    let unlatched : AgImage := BitVec.ofNat 512 (chainDesc.toNat + 0x200)
    s.role = .C ∧ CanIssue .chain ⟨1, 4, 0, 2⟩ s ∧ CanTrap s ∧ (s.g 6).toNat % 64 ≠ 0 ∧ chainValid chainDesc = true ∧ chainValid 1 = false ∧
    x.ag[chainAg chainDesc 0] ≠ 0 ∧ x.ag[chainAg chainDesc 8] ≠ 0 ∧ chainBen chainDesc = false ∧ chainValid unlatched = true ∧
    chainFits chainDesc x.ag[chainAg chainDesc 0] x.ag[chainAg chainDesc 4] x.ag[chainAg chainDesc 8] = true ∧
    x.ag[chainAg unlatched 8] = 0 ∧ chainFits unlatched x.ag[chainAg unlatched 0] x.ag[chainAg unlatched 4] x.ag[chainAg unlatched 8] = false := by
  and_intros <;> first | decide | exact canIssue_of (by decide) | (constructor <;> decide)

/-- An outbound queue with the entry that STV takes and without it; tables that fit each other and tables that do not. -/
theorem test_witness_StoreAndCopyCommands :
    let o := eng .S []
    let dry := onCell o fun x => { x with dq := x.dq.set 3 [⟨0, none⟩] }
    let s := eng .L [(4, 4 + 2 * 2 ^ 16 + 2 * 2 ^ 32), (5, 4 + 2 * 2 ^ 16 + 3 * 2 ^ 32), (6, 4 * 2 ^ 16), (7, 4 + 2 * 2 ^ 16 + 4 * 2 ^ 32)]
    let x := s.myCell
    (o.role = .S ∧ CanIssue .drain ⟨1, 4, 0, 2⟩ o ∧ CanTrap o ∧ o.myCell.ag[3] ≠ 0 ∧ o.myCell.ag[7] = 0 ∧ agBytes o.myCell.ag[3] = 20 ∧
      (o.myCell.dq[3].take 1).map (·.data) = [7].map some ∧ ([(7 : VReg)]).length = (20 + 511) / 512 ∧
      ([(7 : VReg)]).length = (20 / 4 * (tyBits 4 / 8) + 511) / 512 ∧ 4096 < agBytes o.myCell.ag[1] ∧ CanIssue .drain ⟨1, 4, 0, 2⟩ dry ∧
      (∃ y ∈ dry.myCell.dq[3].take 1, y.data = none)) ∧
    CanIssue .copy ⟨1, 4, 0, 2⟩ s ∧ CanIssue .xpose ⟨1, 4, 0, 2⟩ s ∧ CanTrap s ∧ x.ag[4] ≠ 0 ∧ x.ag[5] ≠ 0 ∧ x.ag[7] = 0 ∧
    agBytes x.ag[4] = agBytes x.ag[5] ∧ agBytes x.ag[4] ≠ agBytes x.ag[3] ∧ (s.g 4).toNat = 4 + 2 * 2 ^ 16 + 2 * 2 ^ 32 ∧
    agBytes x.ag[4] = 4 * 2 * 2 ^ 2 ∧ agBytes x.ag[4] ≠ 4 * 2 * 2 ^ 3 ∧ (s.g 6).toNat % 2 ^ 16 = 0 ∧ 4 ≤ (s.g 7).toNat / 2 ^ 32 := by
  and_intros <;> first | decide | exact canIssue_of (by decide) | (constructor <;> decide)

/-- Two NMV descriptors and a collective one in memory. -/
def nmvs : State :=
  onCtx (put (put (put (eng .L [(1, 0x100), (2, 0x140), (3, 0x180), (4, 0x120)]) 0x100 64 (nmvDesc 0x40000000).toNat)
    0x140 64 (nmvDesc 0x3FFFFF00).toNat) 0x180 64 (coll 0).toNat) fun x => { x with vbase := 0x40000000, vlimit := 16 }

theorem test_witness_Described_nmvs :
    Described nmvs 1 ⟨1, 4, 0, 2⟩ (nmvDesc 0x40000000) ∧ Described nmvs 2 ⟨1, 4, 0, 2⟩ (nmvDesc 0x3FFFFF00) ∧
    Described nmvs 3 ⟨1, 4, 0, 2⟩ (coll 0) :=
  ⟨described_of 0x100 ⟨false, rfl⟩ (by decide), described_of 0x140 ⟨false, rfl⟩ (by decide), described_of 0x180 ⟨false, rfl⟩ (by decide)⟩

theorem test_witness_NmvAndColl :
    let s := nmvs
    let n := s.myCell.boxes.length
    s.role = .L ∧ CanIssue .nmv ⟨1, 4, 0, 2⟩ s ∧ CanIssue .coll ⟨1, 4, 0, 2⟩ s ∧ CanTrap s ∧ (s.g 4).toNat % 64 ≠ 0 ∧
    nmvValid (nmvDesc 0x40000000) n = true ∧ s.myCtx.nmvOutside (nmvDesc 0x40000000) = none ∧
    s.myCtx.nmvOutside (nmvDesc 0x3FFFFF00) = some 0x3FFFFF00 ∧ nmvValid (coll 0) n = false ∧
    collValid (coll 0) false = true ∧ collValid (nmvDesc 0x40000000) false = false := by
  and_intros <;> first | decide | exact canIssue_of (by decide) | (constructor <;> decide)

/-- One command of the running task is known to its engine. -/
def withCmd (m : Cmd) : State := { st .S [] with cmds := [m] }

/-- A queued command behind one of another stream, its guard's flag 0, 1, 2 and 3; and an STV whose table lies outside of the boxes that it
may write. -/
theorem test_witness_EngineStartsAndFaults :
    let other := { cmd 1 .drain (.stv 0 []) .queued 0 with stream := 2 }
    let m := { cmd 7 .drain (.stv (tab 0x300 4 5 3) [7]) .queued 0 with guard := 9 }
    let s := { withCmd m with cmds := [other, m] }
    let flag := fun (v : BitVec 32) => ({ s with mem := { s.mem with flags := [(flagKey 0 (cellFlagAddr 0 9), v)] } }).flagAt 0 (cellFlagAddr 0 9)
    let x := cmd 7 .drain (.stv (tab 0x8000 4 5 3) [7]) .started 0
    let u := withCmd x
    Foremost s m ∧ (∀ r ∈ s.col.runs, r.src ≠ .cmd m.id) ∧ (∀ d, m.op ≠ .coll d) ∧ m.owner = .seq 0 .S ∧ s.flagAt 0 (cellFlagAddr 0 9) = 0 ∧
    flag 1 = 1 ∧ flag 2 = 2 ∧ 2 ≤ (flag 3).toNat ∧ Runs u x ∧ u.nextUnit x = .fault ⟨0x06, 0x02, 0, 0x8000, none⟩ ∧ x.prog < x.total ∧
    (∃ k, u.taskOf x.stamp = some k ∧ k.req = none) ∧ (u.seqAt 0 .S).pending = [] ∧ (u.seqAt 0 .S).status = .ready := by
  refine ⟨⟨by decide, [_], [], rfl, fun x h => ?_⟩, by decide, (by intro d h; cases h), by decide, by decide, by decide, by decide, by decide,
    ⟨by decide, by decide⟩, rfl, by decide, ⟨_, rfl, by decide⟩, by decide, by decide⟩
  rw [List.mem_singleton.mp h]
  decide

/-- An STV and an MMA that a guard holds, and an FSET of that guard's flag with each value that decides differently. -/
theorem test_witness_GuardDecides :
    let m := { cmd 7 .drain (.stv 0 [7]) .guarded 0 with guard := 9 }
    let a := { cmd 7 .matrix (.mma 14 2 0 0 0x88 true false 0) .guarded 0 with guard := 9 }
    let s := { st .S [(1, 0xFFFFFF0000080024), (2, 1), (3, 2), (4, 3), (5, 0x100000000)] with cmds := [m] }
    (m.owner = .seq 0 .S ∧ s.cmds.filter (fun x => x.id == m.id) = [m] ∧
      s.cmds.filter (fun x => x.ctx == s.ctxIx && x.guardAddr == some (s.g 1).toNat) = [m] ∧ (s.g 1).toNat % 4 = 0) ∧
    OnFlagPage (s.g 1) ∧ ¬ IsBarrierWord s s.ctxIx (s.g 1).toNat ∧ ((s.g 2).truncate 32 : BitVec 32) = 1 ∧ ((s.g 3).truncate 32 : BitVec 32) = 2 ∧
    2 ≤ ((s.g 4).truncate 32 : BitVec 32).toNat ∧ ((s.g 5).truncate 32 : BitVec 32) = 0 ∧ a.op.isMma = true ∧ m.op.isMma = false ∧
    ((withCmd a).cmds.filter fun x => x.ctx == 0 && x.guardAddr == some (s.g 1).toNat).map (·.id) = [7] := by
  unfold OnFlagPage IsBarrierWord
  and_intros <;> decide

/-- Memory and the ring hold what an LDA, an MMA, an LDV and a VGATH in progress need next. -/
theorem test_witness_EngineUnits :
    let a := cmd 7 .load (.lda (tab 0x100 72 256 3) 0 256) .started 255
    let b := cmd 7 .matrix (.mma 14 2 0 0 0x88 true false 0) .started 1
    let r := onCell (withCmd b) fun x => { x with ring := [(0, 5), (1, 6)], ringHead := 2 }
    let c := cmd 7 .load (.ldv 0 (tab 0x300 4 5 3) [40]) .started 0
    let d := cmd 7 .load (.vgath 0 (tab 0x300 4 5 3) 0x400 12 [42]) .started 0
    (Runs (withCmd a) a ∧ a.prog < a.total ∧ a.op = .lda (tab 0x100 72 256 3) 0 256 ∧ 0 + a.prog < 256 ∧ a.eng = .load ∧
      (∃ u bs, (withCmd a).readStream ((withCmd a).cmdAgent a) (tab 0x100 72 256 3) (72 * a.prog) 72 = .ok u bs ∧ u.rowFree a.cellOf 255 = false ∧
        u.cells = (withCmd a).cells ∧ u.cmds = (withCmd a).cmds)) ∧
    (Runs r b ∧ b.prog < b.total ∧ r.rowAfter b b.cellOf 15 = false ∧ ringGroup (r.cellAt b.cellOf).ring 1 1 = some 6 ∧ b.eng = .matrix ∧ Canonical r) ∧
    (Runs (withCmd c) c ∧ c.prog < c.total ∧
      ∃ u bs, (withCmd c).readStream ((withCmd c).cmdAgent c) (tab 0x300 4 5 3) (512 * c.prog) 20 = .ok u bs ∧ u.cells = (withCmd c).cells ∧
        u.cmds = (withCmd c).cmds) ∧
    (Runs (withCmd d) d ∧ d.prog < d.total ∧
      ∃ v idx u bs, (withCmd d).readStream ((withCmd d).cmdAgent d) (tab 0x300 4 5 3) 0 20 = .ok v idx ∧
        v.gather (v.cmdAgent d) 4 (gathAddrs 0x400 4 idx) = .ok u bs ∧ u.cells = (withCmd d).cells ∧ u.cmds = (withCmd d).cmds) :=
  ⟨⟨⟨by decide, by decide⟩, by decide, by decide, by decide, by decide, _, _, rfl, by decide, rfl, rfl⟩,
    ⟨⟨rfl, rfl⟩, by decide, rfl, by decide, rfl, ⟨by decide, by decide, by decide, by decide, by decide⟩⟩,
    ⟨⟨by decide, by decide⟩, by decide, _, _, rfl, rfl, rfl⟩, ⟨⟨by decide, by decide⟩, by decide, _, _, _, _, rfl, rfl, rfl, rfl⟩⟩

/-- Boxes over the first page, over a page of POL 1 at 0x20000, and over a vault window at 0x40000000. -/
def nmvBoxes : List TaskBox := [box .RW 0, box .R 0x20000, box .RW 0x40000000]

/-- The W of an NMV lies at 0x20000, its vectors in the window. -/
def nmvIn : AgImage :=
  BitVec.ofNat 512 (0x20000 + 0x40000000 * 2 ^ 64 + 0x40001000 * 2 ^ 128 + (1 + 2 * 2 ^ 32 + 8 * 2 ^ 52 + 8 * 2 ^ 56) * 2 ^ 192 +
    (1 + 2 * 2 ^ 4 + 2 * 2 ^ 8) * 2 ^ 256)

def window (s : State) : State :=
  let leaves := [tlbEntry 0 0 3 openLeaf.toNat, tlbEntry 0 0x20000 3 (openLeaf.toNat + 2 ^ 9 + 0x20000)]
  onCtx { s with mem := { s.mem with micro := s.mem.micro.set (0 : Fin 256) leaves } } fun x => { x with vbase := 0x40000000, vlimit := 16 }

/-- For each engine command a state in which its last unit is next, or all its units are done. -/
theorem test_witness_EngineCompletions :
    let w := fun (m : Cmd) => (withCmd m).cmdAgent m
    let lda := cmd 7 .load (.lda (tab 0x100 72 256 3) 0 256) .started 256
    let ldb := cmd 7 .load (.ldb 1 (tab 0x100 72 256 3)) .started 255
    let drain := cmd 7 .drain (.drain 15 1 .plain 8 false 0 (tab 0x100 256 1 3) 0 0 [3]) .started 0
    let stv := cmd 7 .drain (.stv (tab 0x300 4 5 3) [7]) .started 0
    let vscat := cmd 7 .drain (.vscat (tab 0x300 4 5 3) 0x1000 12 [7]) .started 0
    let chain := cmd 7 .chain (.chain chainDesc 0 (tab 0x400 4 1 12) 0 (tab 0x500 4 1 12) 0) .started 0
    let cpy := cmd 7 .copy (.cpy (tab 0x200 4 1 3) (tab 0x100 4 1 3)) .started 0
    let xpose := cmd 7 .xpose (.xpose (tab 0x200 1 2 3) (tab 0x100 2 1 3) (2 + 2 ^ 16)) .started 0
    let nmv := { cmd 7 .nmv (.nmv nmvIn (some [0, 0])) .started 0 with boxes := nmvBoxes }
    let n := window (withCmd nmv)
    (Runs (withCmd lda) lda ∧ lda.total ≤ lda.prog) ∧
    (Runs (withCmd ldb) ldb ∧ ldb.prog < ldb.total ∧ ∃ u bs, (withCmd ldb).readStream (w ldb) (tab 0x100 72 256 3) (72 * 255) 72 = .ok u bs) ∧
    (Runs (withCmd drain) drain ∧ drain.prog < drain.total ∧ (withCmd drain).drainWaits drain.cellOf [3] 15 1 = false ∧
      (∀ i < 1, ∀ j < 256, accKey drain.cellOf (15 + i) * 256 + j ∉ (withCmd drain).mem.badAcc)) ∧
    (Runs (withCmd stv) stv ∧ stv.prog < stv.total ∧
      ∃ u, (withCmd stv).putStream (w stv) (tab 0x300 4 5 3) 0 ((bytesOf 512 7).take 20) = .ok u ()) ∧
    (Runs (withCmd vscat) vscat ∧ ∃ x idx y u, (withCmd vscat).readStream (w vscat) (tab 0x300 4 5 3) 0 20 = .ok x idx ∧
      x.probeScatter (w vscat) 4 (gathAddrs 0x1000 4 idx) = .ok y () ∧
      y.scatter (w vscat) 4 (gathAddrs 0x1000 4 idx) (bytesOf 512 7) = .ok u ()) ∧
    (Runs (withCmd chain) chain ∧ chain.prog + 1 = chain.total ∧ chainBen chainDesc = false ∧
      ∃ x a u, (withCmd chain).readStream (w chain) (tab 0x400 4 1 12) 0 4 = .ok x a ∧
        x.putStream (w chain) (tab 0x500 4 1 12) 0 (bytesOf 4 (chainElem chainDesc (fpCtlOf 0) (natOf a) 0).1) = .ok u ()) ∧
    (Runs (withCmd cpy) cpy ∧ agChunk (tab 0x200 4 1 3) = 4 ∧
      ∃ x bs u, (withCmd cpy).readStream (w cpy) (tab 0x100 4 1 3) 0 4 = .ok x bs ∧ bs.length = 4 ∧ x.putStream (w cpy) (tab 0x200 4 1 3) 0 bs = .ok u ()) ∧
    (Runs (withCmd xpose) xpose ∧ xposeParam (2 + 2 ^ 16) = some (1, 2, 1) ∧
      ∃ x bs u, (withCmd xpose).readColumn (w xpose) (tab 0x100 2 1 3) 1 1 0 (List.range 2) = .ok x bs ∧
        x.putStream (w xpose) (tab 0x200 1 2 3) 0 bs = .ok u ()) ∧
    (Runs n nmv ∧ (n.ctxAt nmv.ctx).nmvOutside nmvIn = none ∧ nmvAcc nmvIn = false ∧ nmv.prog + 1 = nmvRows nmvIn ∧
      ∃ x row u, n.nmvUnits (n.cmdAgent nmv) nmvIn 0 (List.range (ceilDiv (nmvRowBytes nmvIn) 4096)) = .ok x row ∧
        x.writeAt (n.cmdAgent nmv) (nmvSlot nmvIn 8) (nmvY nmvIn) (bytesOf 4 (nmvRow nmvIn row [0, 0] none)) = .ok u ()) :=
  ⟨⟨⟨rfl, rfl⟩, by decide⟩, ⟨⟨rfl, rfl⟩, by decide, _, _, rfl⟩, ⟨⟨rfl, rfl⟩, by decide⟩,
    ⟨⟨rfl, rfl⟩, by decide, _, rfl⟩, ⟨⟨rfl, rfl⟩, _, _, _, _, rfl, rfl, rfl⟩, ⟨⟨rfl, rfl⟩, by decide, by decide, _, _, _, rfl, rfl⟩,
    ⟨⟨rfl, rfl⟩, by decide, _, _, _, rfl, by decide, rfl⟩, ⟨⟨rfl, rfl⟩, by decide, _, _, _, rfl, rfl⟩,
    ⟨⟨rfl, rfl⟩, by decide, by decide, by decide, _, _, _, rfl, rfl⟩⟩


/-- What a DRAIN of type 8 in each mode, and one of blocks of type 13, reads and writes for its last unit. -/
theorem test_witness_DrainUnits :
    let cmdOf := fun (mode : DrainMode) (ty : Nat) (tD : AgImage) => cmd 7 .drain (.drain 15 1 mode ty false 0 tD (tab 0x300 16 1 3) 0 [3]) .started 0
    let plain := withCmd (cmdOf .plain 8 (tab 0x100 256 1 3))
    let norm := withCmd (cmdOf .norm 8 (tab 0x100 256 1 3))
    let mom := withCmd (cmdOf .mom 13 (tab 0x100 128 1 3))
    let w := plain.cmdAgent (cmdOf .plain 8 (tab 0x100 256 1 3))
    (∃ u, plain.drainWrite w .plain (tab 0x100 256 1 3) 0 0 0 (drainRow 8 false (rowCols (plain.accRow 0 15))) [] = .ok u ()) ∧
    (∃ x ms, norm.readStream w (tab 0x300 16 1 3) 0 16 = .ok x ms ∧
      ∃ u, x.drainWrite w .norm (tab 0x100 256 1 3) (tab 0x300 16 1 3) 0 0
        (drainRow 8 false ((normRows .norm 0 ms [rowCols (norm.accRow 0 15)]).getD 0 [])) [] = .ok u ()) ∧
    (∃ u, mom.drainWrite w .mom (tab 0x100 128 1 3) (tab 0x300 16 1 3) 0 0
        (drainBlocks 13 1 [rowCols (mom.accRow 0 15)]) (bytesOf 16 0) = .ok u ()) :=
  ⟨⟨_, rfl⟩, ⟨_, _, rfl, _, rfl⟩, ⟨_, rfl⟩⟩

/-- A CHAIN with a second input, and an NMV that starts from y. -/
theorem test_witness_SecondInputs :
    let d : AgImage := BitVec.ofNat 512 (chainDesc.toNat + 0x850)
    let chain := cmd 7 .chain (.chain d 0 (tab 0x400 4 1 12) (tab 0x440 4 1 12) (tab 0x500 4 1 12) 0) .started 0
    let s := withCmd chain
    let acc : AgImage := BitVec.ofNat 512 (nmvIn.toNat + 2 ^ 252)
    let nmv := { cmd 7 .nmv (.nmv acc (some [0, 0])) .started 0 with boxes := nmvBoxes }
    let n := window (withCmd nmv)
    (Runs s chain ∧ chainBen d = true ∧ ∃ x y a b, s.readStream (s.cmdAgent chain) (tab 0x400 4 1 12) 0 4 = .ok x a ∧
      x.readStream (s.cmdAgent chain) (tab 0x440 4 1 12) 0 4 = .ok y b) ∧
    (Runs n nmv ∧ nmvAcc acc = true ∧ nmv.prog + 1 = nmvRows acc ∧
      ∃ x row y old, n.nmvUnits (n.cmdAgent nmv) acc 0 (List.range (ceilDiv (nmvRowBytes acc) 4096)) = .ok x row ∧
        x.readBytes (n.cmdAgent nmv) (nmvSlot acc 8) (nmvY acc) 4 = .ok y old) :=
  ⟨⟨⟨rfl, rfl⟩, by decide, _, _, _, _, rfl, rfl⟩, ⟨⟨rfl, rfl⟩, by decide, by decide, _, _, _, _, rfl, rfl⟩⟩
/-- Sequencer K of cell 0 waits. -/
def waits (w : Wait) : State := onSeq (st .K []) fun y => { y with status := .waiting w }

/-- Every condition for which a sequencer waits is met at its limit; waits at and before their bounds. -/
theorem test_witness_WaitEnds :
    let s := onCell (waits (.tokens 1)) fun x => { x with
      tokens := x.tokens.set (tokenQueue .L .K) 1, dq := (x.dq.set 0 [⟨0, some 5⟩]).set 3 (List.replicate 7 ⟨0, some 0⟩), fmtq := List.replicate 15 0 }
    let a : Word := 0xFFFFFF0000000010
    let flag := waits (.flag a .eq 1 true 3 1024 1024 none)
    let step := waits (.step 4 false 3 1024 1023 false)
    let bar := waits (.barrier a 0 true 3 2048 none)
    let stalled := fun (n : Nat) => onSeq (st .K []) fun y => { y with stall := some (0x100, n) }
    let b := { bar with mem := { bar.mem with flags := [(flagKey 0 0xFFFFFF0000000018, 2)] } }
    (∀ r, (∃ i : Fin 3, (otherRoles Role.K)[i.val]? = some r ∧ (1 : BitVec 3).getLsbD i.val = true) → 1 ≤ (s.cellAt 0).tokens[tokenQueue r .K]) ∧
    (∀ n ∈ [((0 : Fin 4), 1)], n.2 ≤ (s.cellAt 0).dq[n.1].length ∧ ∀ e ∈ (s.cellAt 0).dq[n.1].take n.2, e.data ≠ none) ∧
    (s.cellAt 0).dq[3].length + 1 ≤ 8 ∧ (s.cellAt 0).fmtq ≠ [] ∧ (s.cellAt 0).fmtq.length < 16 ∧ s.queueLen .drain 0 < 16 ∧
    (s.seqAt 0 .K).status = .waiting (.tokens 1) ∧ Canonical b ∧ (flag.seqAt 0 .K).held = 0 ∧
    (flag.seqAt 0 .K).status = .waiting (.flag a .eq 1 true 3 1024 1024 none) ∧ (step.seqAt 0 .K).status = .waiting (.step 4 false 3 1024 1023 false) ∧
    (b.seqAt 0 .K).status = .waiting (.barrier a 0 true 3 2048 none) ∧ (b.flagAt 0 (a.toNat + 8)).toNat * 1024 ≤ 2048 ∧
    (b.flagAt 0 (a.toNat + 8)).toNat ≠ 0 ∧ (bar.flagAt 0 (a.toNat + 8)).toNat = 0 ∧ (b.seqAt 0 .K).hnd = false ∧ (b.seqAt 0 .K).tvec ≠ 0 ∧
    (((stalled 0xFFFFFF).seqAt 0 .K).status = .ready ∧ ((stalled 0xFFFFFF).seqAt 0 .K).stall = some (0x100, 0xFFFFFF) ∧
      0xFFFFFF < ((stalled 0xFFFFFF).ctxAt 0).stmo.toNat * 1024 ∧ ((stalled 0x1000000).ctxAt 0).stmo.toNat * 1024 ≤ 0x1000000) ∧
    ((waits (.pause 0)).seqAt 0 .K).status = .waiting (.pause 0) ∧ ((waits (.home 5 a 1 true true 3 0)).seqAt 0 .K).status = .waiting (.home 5 a 1 true true 3 0) := by
  and_intros <;> first | decide | (intro r; cases r <;> decide) | (constructor <;> decide)

/-- One operation at the post sequencer, for which K of cell 0 waits with register 3. -/
def posting (op : PostOp) (queued wait : Bool) (last : Option Word) : PostReq := ⟨5, .seq 0 .K 3, 0, op, wait, 0, 1000, queued, last, 0, [], none⟩

def posted (p : PostReq) : State :=
  let s := waits (.post 5)
  { s with erg := { s.erg with posts := [p] } }

/-- A descriptor of one dimension of 16 bytes. -/
def frameBytes : List Byte := bytesOf 64 (0x1000 + 0x11 * 2 ^ 128 + 16 * 2 ^ 160)

/-- Numbers at and beyond the last frame id, a frame that exists and is used, a launch record that fits, operations that are queued, waiting
and over. -/
theorem test_witness_PostSequencing :
    let p := posting (.frfree 4) true false none
    let f : Frame := ⟨4, 0, ⟨0, 0, 1, 1, #v[1, 1, 1, 1], #v[1, 0, 0, 0]⟩, 1, false⟩
    let s := { posted p with erg := { (posted p).erg with frames := [f] } }
    let r := posting (.task (List.replicate 256 0)) true true none
    let e := posting (.task (List.replicate 256 0)) false true (some 3)
    p.src = .seq 0 .K 3 ∧ (s.seqAt 0 .K).status = .waiting (.post p.id) ∧ s.erg.posts.find? (·.queued) = some p ∧ s.erg.frames = [f] ∧
    (¬ ∃ t ∈ s.erg.tasks, ∃ b ∈ t.boxes, b.frame = 4) ∧ (∀ g ∈ s.erg.frames, g.id ≠ 4095) ∧ s.launchHead 0 3 = none ∧
    (put s ((s.ctxAt 0).launchKey 3) 8 (2 ^ 16 + 2)).launchHead 0 3 = some (2, 0) ∧ descValid (s.ctxAt 0) frameBytes = true ∧
    descValid (s.ctxAt 0) (List.replicate 64 0) = false ∧
    (posted r).erg.posts.find? (·.queued) = some r ∧ r.wait = true ∧ s.clk.cycle.toNat - r.issued < r.bound ∧
    (posted e).erg.posts.find? (·.id == e.id) = some e ∧ (posted e).erg.posts.find? (fun y => y.id == e.id && !y.queued) = some e ∧ e.last = some 3 ∧
    (let u := { posted e with clk := { (posted e).clk with cycle := 1000 } }; e.bound ≤ u.clk.cycle.toNat - e.issued) := by
  and_intros <;> decide

def isTables : Payload → Bool
  | .tables _ tS tD => tS == 0 && tD == 0
  | _ => false

/-- A record that is posted as a CELL task, one that no limit lets in, and one of two tables for a COPY. -/
theorem test_witness_TaskPayload :
    let r := List.replicate 256 (0 : Byte)
    let s := posted (posting (.task r) true true none)
    let none := onCtx s fun x => { x with equota := 0 }
    recordFits r = true ∧ natAt r 0 4 % 16 = 0 ∧ kindOf 0 = some .cell ∧ recordFits (List.replicate 256 1) = false ∧
    (∃ b, s.boxesOf 0 r (List.range 0) = some (true, b)) ∧ isTables (s.payloadOf 0 (2 ^ 41 + 5) .cell 0 0) = true ∧
    ¬ (s.ctxAt 0).equota < s.entriesOf 0 + (slicesOf [] 0 s.erg.nextStamp).length ∧
    (none.ctxAt 0).equota < none.entriesOf 0 + (slicesOf [] 0 none.erg.nextStamp).length ∧
    (¬ ∃ n ∈ slicesOf [] 0 s.erg.nextStamp, 256 ≤ (s.erg.tasks.filter fun t => t.slices.contains n).length) ∧ s.erg.nextStamp < 2 ^ 63 := by
  and_intros <;> first | decide | exact ⟨_, rfl⟩

def isBlock : Armed → Option (List Nat)
  | .accepted _ l => some l
  | _ => none

/-- A launch record of one root whose task is posted, in scheduler memory that can be read, and the last index of one. -/
theorem test_witness_Arming :
    let p := posting (.larm 3) true true none
    let s := put (posted p) ((State.reset.ctxAt 0).launchKey 3) 16 (2 ^ 16 + 1 + 0x10000 * 2 ^ 64)
    let s0 := s.checkArm 0 3
    p.op = .larm 3 ∧ s.erg.posts.find? (·.queued) = some p ∧ s0.launchHead 0 3 = some (1, 0x10000) ∧ s0.launchClean 0 3 = true ∧
    isBlock (s0.postRoots 0 (2 ^ 41 + p.id) 3 (rootOffsets 1 0x10000)) = some [s.erg.nextStamp] ∧ s.erg.nextStamp + 1 < 2 ^ 63 := by
  and_intros <;> decide
def packet (cls : PktClass) (src dst : Nat) (b : Body) : Packet := ⟨cls, src, dst, 7, 0, 0, 3, b⟩

/-- A new and a repeated packet of a job that is here, one of a job that is not, and a TPOSTX that waits for its answer at and before 25 µs. -/
theorem test_witness_PostsAcrossThePod :
    let s0 := linked (pod (st .K []))
    let p := packet .request 1 0 (.post 9 true (List.replicate 256 0))
    let m : Remote := ⟨9, 0, 0, .K, 1, 0x300, 5, [box .RW 0], 0, none, 0⟩
    let s := { s0 with fab := { s0.fab with remotes := [m] }, clk := { s0.clk with fs := 25000000000 } }
    let agent : Agent := ⟨m.ctx, some m.cell, some m.boxes, seqAgentId m.cell m.role 0, 0, (s.ctxAt m.ctx).step, none, 2 ^ 43 + m.id⟩
    s0.ctxOfJob p.job = some 0 ∧ (st .K []).ctxOfJob p.job = none ∧ (linked (st .K [])).liveHops p.src ≠ [] ∧ (p.job * 4096 + p.src, p.seqNo) ∉ s0.fab.seen ∧
    s.fab.remotes.find? (·.id == m.id) = some m ∧ m.ans = none ∧ 25000000000 ≤ s.clk.fs - m.since ∧ s0.clk.fs - m.since < 25000000000 ∧
    (∃ u, s.writeAt agent none m.res.toNat (bytesOf 8 5) = .ok u () ∧ Canonical u ∧ ¬ IsBarrierWord u m.ctx (0xFFFFFF0000000000 + 4 * m.flag)) ∧
    (∀ y ∈ s0.fab.remotes, y.id ≠ m.id) := by
  unfold IsBarrierWord
  and_intros <;> first | decide | exact ⟨_, rfl, by constructor <;> decide, by decide⟩

/-- A READY CELL task that may start on cell 255, one of an engine, and a task in every state that the events name. -/
theorem test_witness_ErgEvents :
    let base := st .K []
    let t : Task := { loadedTask 9 with state := .ready, cell := none, place := 255, body := 0x100, tokens := 1, accEnd := 2 }
    let e : Task := { t with kind := .copy }
    let s := { base with erg := { base.erg with tasks := base.erg.tasks ++ [t] } }
    let u := { base with erg := { base.erg with tasks := base.erg.tasks ++ [e] } }
    let x : Task := { loadedTask State.reset.erg.nextStamp with state := .ending, cflag := 0xFFFFFF0000000004 }
    let d := { base with erg := { base.erg with tasks := [x, { t with preds := [x.stamp], state := .posted }] } }
    let late := { s with clk := { s.clk with cycle := 65536 } }
    let gone := { base with erg := { base.erg with tasks := [] } }
    State.reset.contenders = [] ∧ s.contenders = [t] ∧ (s.ctxAt 0).switchedOut = false ∧ (s.ctxAt 0).tokenOut = false ∧
    (∃ v c, s.place [] t = some (v, c)) ∧ s.place [15] t = none ∧ t.slot = none ∧ Canonical s ∧ u.contenders = [e] ∧ e.kind ≠ .cell ∧ u.queueLen (kindEng e.kind) (e.primary / 8) < 16 ∧
    late.taskOf 9 = some t ∧ t.cls < 3 ∧ 65536 ≤ late.clk.cycle.toNat - t.readySince ∧ s.clk.cycle.toNat - t.readySince < 65536 ∧
    d.taskOf x.stamp = some x ∧ x.req = none ∧ (∀ m ∈ d.cmds, m.stamp ≠ x.stamp) ∧ x.cell = some 0 ∧ (∀ p ∈ d.mem.pend, p.cell ≠ 0) ∧
    ¬ IsBarrierWord d 0 x.cflag.toNat ∧ Canonical d ∧ gone.taskOf State.reset.erg.nextStamp = none ∧
    (∀ c, (gone.cellAt c).task = some State.reset.erg.nextStamp ↔ c = 0) ∧
    (∃ m ∈ ({ gone with cmds := [cmd 7 .drain (.stv 0 []) .started 0] }).cmds, m.stamp = State.reset.erg.nextStamp ∧ m.state = .started) := by
  unfold IsBarrierWord
  and_intros <;> first | decide | exact ⟨_, _, rfl⟩ | (constructor <;> decide)

/-- A page table whose level 4 entry 0 leads to an open leaf, with walks of a cell that find it and do not, one of an agent without a cache,
and a store. -/
def walkState : State :=
  let s := onCtx (put (put (st .K []) 0x10000 8 0x20001) 0x20000 8 openLeaf.toNat) fun x => { x with root := 0x10001 }
  let p : PStore := ⟨8, 17, .S, 1, 0, [(0x100, 7, 0), (0x101, 8, 0)], 0x100⟩
  { s with mem := { s.mem with
      walks := [⟨5, 0, 3, [(some 2, 9)], some (0x10001, 0), none⟩, ⟨6, 1, 3, [(some 2, 9)], some (0, 0), none⟩, ⟨7, 0, 4, [(none, 9)], some (0x10001, 0), none⟩]
      pend := [p] } }

/-- A walk that finds a leaf, one that does not, and a store to be performed. -/
theorem test_witness_TranslationEvents :
    let s := walkState
    s.walking.find? (·.id == 5) = some ⟨5, 0, 3, [(some 2, 9)], some (0x10001, 0), none⟩ ∧
    s.walking.find? (·.id == 6) = some ⟨6, 1, 3, [(some 2, 9)], some (0, 0), none⟩ ∧
    s.walking.find? (·.id == 7) = some ⟨7, 0, 4, [(none, 9)], some (0x10001, 0), none⟩ ∧
    s.walking.find? (·.id == 8) = none ∧ (s.walk 0 0x10001 0 (3 * 65536)).toOption = some (1, openLeaf.toNat, [0x20000, 0x10000]) ∧
    (s.walk 0 0x10001 0 (4 * 65536)).toOption = some (1, openLeaf.toNat, [0x20000, 0x10000]) ∧ (s.walk 1 0 0 (3 * 65536)).toOption = none ∧
    s.mem.pend.find? (·.id == 8) = some ⟨8, 17, .S, 1, 0, [(0x100, 7, 0), (0x101, 8, 0)], 0x100⟩ ∧ Canonical s ∧
    (∀ q ∈ s.mem.pend, q.id ≠ 9) ∧ s.host.shoot = none ∧
    s.mem.pend = [⟨8, 17, .S, 1, 0, [(0x100, 7, 0), (0x101, 8, 0)], 0x100⟩] := by
  and_intros <;> first | decide | (constructor <;> decide)

/-- Shootdowns at and before 16 µs: cluster 2 invalidates and has nothing to await, cluster 1 awaits the store, cluster 4 is in W3. -/
theorem test_witness_TranslationEvents_shootdown :
    let j : ShootJob := ⟨5, 0, 0, 0x10000, 0, [3], [4], [1, 3], [8], false⟩
    let u := { walkState with host := { walkState.host with shoot := some j } }
    let v := { u with clk := { u.clk with fs := 16000000000 } }
    let rest : List (Fin 16) := (List.finRange 16).filter (· != 1)
    u.host.shoot = some j ∧ (3 : Fin 16) ∈ j.reported ∧ (2 : Fin 16) ∉ j.reported ∧ (1 : Fin 16) ∉ j.w3 ∧ (2 : Fin 16) ∉ j.invalidated ∧
    (1 : Fin 16) ∈ j.invalidated ∧ (∃ q ∈ u.mem.pend, q.id ∈ j.awaited ∧ clusterOf q.cell = 1) ∧
    (∀ q ∈ u.mem.pend, ¬ (q.id ∈ u.usersOf 2 j ++ j.awaited ∧ clusterOf q.cell = 2)) ∧ (4 : Fin 16) ∈ j.w3 ∧ u.erg.quiet.getLsbD 4 = false ∧
    j.reported.length + 1 < 16 ∧ 16 ≤ rest.length + 1 ∧ u.clk.fs - j.since < 16000000000 ∧ 16000000000 ≤ v.clk.fs - j.since ∧
    (∀ m : Fin 16, m ≠ 1 → m ∈ rest) ∧ (1 : Fin 16) ∉ rest := by
  and_intros <;> decide

/-- The first entry of the ring of queue 5, an administrative queue of context 0, holds a command with its words. -/
def ring (s : State) (op w0 w1 w2 : Nat) : State :=
  let q := { s.queueAt 5 with en := true, admin := true, rbase := 0x1000, cbase := 0x2000, doorbell := 1 }
  put (s.setQueue 5 q) (hostKey 0x1040) 64 (1 + op * 2 ^ 32 + w0 * 2 ^ 64 + w1 * 2 ^ 128 + w2 * 2 ^ 192)

/-- The command of `ring` is the queue's next one. -/
def nextOk (s : State) (op : Nat) : Bool :=
  s.queueOpen 5 && (s.queueAt 5).dueTrig.isNone && (s.queueAt 5).consumed != (s.queueAt 5).doorbell &&
  natAt (s.nextEntry 5) 0 4 == ((s.queueAt 5).consumed + 1).toNat && natAt (s.nextEntry 5) 4 4 == op && decide (1 ≤ op) && decide (op ≤ 14) &&
  natAt (s.nextEntry 5) (8 + 8 * operandWords op) 64 == 0 && (!adminOp op || (s.queueAt 5).admin)

theorem nextIs_of (s : State) (op : Nat) (h : nextOk s op = true) : NextIs s 5 op (s.nextEntry 5) := by
  simp only [nextOk, Bool.and_eq_true, Option.isNone_iff_eq_none, bne_iff_ne, ne_eq, beq_iff_eq, decide_eq_true_eq, Bool.or_eq_true,
    Bool.not_eq_true'] at h
  obtain ⟨⟨⟨⟨⟨⟨⟨⟨a, b⟩, c⟩, d⟩, e⟩, f⟩, g⟩, i⟩, k⟩ := h
  exact ⟨a, b, c, rfl, d, e, ⟨f, g⟩, i, fun x => k.resolve_left (by rw [x]; decide)⟩

def word_ (s : State) (i : Nat) : Nat := natAt (s.nextEntry 5) (8 + 8 * i) 8

/-- A partition of one MiB in slot 63, with 2^30 as its base. -/
def partition : Nat := 2 ^ 30 * 2 ^ 64 + 1 * 2 ^ 128 + 63 * 2 ^ 192

/-- A closed queue, a command with a number that does not fit, with none of the 14 codes and with a byte behind its operands; launches and
frame commands at and beyond their ranges. -/
theorem test_witness_HostCommands :
    let s := State.reset
    let launch := ring s 1 1023 0x400 0
    let launch' := ring s 1 1024 0x400 0
    let def_ := ring s 2 4095 0x3000 0
    let def' := ring s 2 4095 0x3020 0
    let free := ring s 3 4096 0 0
    let tail := put (ring s 10 0 0 0) (hostKey 0x107F) 1 1
    s.queueOpen 5 = false ∧ nextOk (ring s 10 0 0 0) 0x0A = true ∧
    natAt ((ring s 15 0 0 0).nextEntry 5) 0 4 = 1 ∧ 14 < natAt ((ring s 15 0 0 0).nextEntry 5) 4 4 ∧
    natAt ((put (ring s 10 0 0 0) (hostKey 0x1040) 4 2).nextEntry 5) 0 4 ≠ 1 ∧ natAt (tail.nextEntry 5) 8 64 ≠ 0 ∧
    nextOk launch 1 = true ∧ word_ launch 0 ≤ 1023 ∧ word_ launch 1 % 1024 = 0 ∧ nextOk launch' 1 = true ∧
    1023 < word_ launch' 0 ∧ nextOk def_ 2 = true ∧ word_ def_ 0 ≤ 4095 ∧ word_ def_ 1 % 64 = 0 ∧ nextOk def' 2 = true ∧ word_ def' 1 % 64 ≠ 0 ∧
    nextOk free 3 = true ∧ 4095 < word_ free 0 := by
  and_intros <;> decide

/-- Configurations that fit and do not, of a context that is busy and is not; keys of every owner and of none; a shootdown. -/
theorem test_witness_Configuration :
    let s := State.reset
    let cfg := put (ring s 4 3 0x3000 0) (hostKey 0x3000) 48 partition
    let cfg' := put (ring s 4 3 0x3000 0) (hostKey 0x3000) 48 (partition + 64 * 2 ^ 192)
    let key := ring s 6 (1 + 0x7F * 2 ^ 16) 0x3000 0
    let key' := ring s 6 (1 + 64 * 2 ^ 16) 0x3000 0
    let shoot := ring s 5 3 0x10000 0x10000
    let d := cfg.readHost (word_ cfg 1) 48
    nextOk cfg 4 = true ∧ word_ cfg 0 = (3 : Fin 64).val ∧ nextOk cfg' 4 = true ∧ Canonical cfg ∧
    (imageReserved d = false ∧ cfg.partitionFits 3 (natAt d 8 8) (natAt d 16 8 % 128) (natAt d 24 8 % 64) 0 0 = true) ∧
    imageReserved (cfg'.readHost (word_ cfg' 1) 48) = true ∧ (∀ t ∈ cfg.erg.tasks, t.ctx ≠ 3) ∧ (cfg.ctxAt 3).joined = false ∧
    (∃ t ∈ ({ cfg with erg := { cfg.erg with tasks := [{ loadedTask 1 with ctx := 3 }] } }).erg.tasks, t.ctx = 3) ∧
    nextOk key 6 = true ∧ word_ key 0 / 2 ^ 23 = 0 ∧ word_ key 0 / 2 ^ 16 % 2 ^ 7 = 0x7F ∧ nextOk key' 6 = true ∧
    word_ key' 0 / 2 ^ 16 % 2 ^ 7 = 64 ∧ shoot.host.shoot = none ∧ nextOk shoot 5 = true ∧ word_ shoot 0 = (3 : Fin 64).val := by
  and_intros <;> first | decide | (constructor <;> decide)

/-- A command that `nextOk` accepts meets the premise of its statement. -/
theorem test_witness_NextIs : NextIs (ring State.reset 1 1023 0x400 0) 5 1 ((ring State.reset 1 1023 0x400 0).nextEntry 5) := nextIs_of _ _ (by decide)

def armedList : Armed → Option (List Nat)
  | .accepted _ l => some l
  | _ => none

/-- A LAUNCH at the post sequencer: of no record, and of one root with room for its claim and without. -/
theorem test_witness_HostLaunch :
    let p : PostReq := ⟨5, .host 5, 0, .launch 3 0, false, 0, 0, true, none, 0, [], none⟩
    let q := { State.reset.queueAt 5 with en := true, bounded := true, cmask := 1, busy := .post false }
    let s := { (State.reset.setQueue 5 q) with erg := { State.reset.erg with posts := [p] } }
    let r := put s ((s.ctxAt 0).launchKey 3) 16 (2 ^ 16 + 1 + 0x10000 * 2 ^ 64)
    let r0 := (r.checkPatches 0).checkArm 0 3
    s.erg.posts.find? (·.queued) = some p ∧ p.src = .host 5 ∧ p.op = .launch 3 0 ∧
    (((s.checkPatches 0).checkArm 0 3).applyPatches 0 3 0).isNone = false ∧ (s.applyPatches 0 3 (2 ^ 26)).isNone = true ∧
    armedList (s.armRecord 0 (2 ^ 41 + 5) 3) = none ∧ armedList (r0.armRecord 0 (2 ^ 41 + 5) 3) = some [r.erg.nextStamp] ∧
    (s.queueAt 5).bounded = true ∧ 1 + r0.claims 1 ≤ r0.freeCells 1 ∧ ¬ 1 + r0.claims 0 ≤ r0.freeCells 0 := by
  and_intros <;> decide
/-- The state that an instruction answers. -/
def after (i : Instr) (s : State) : State := match exec i s with | .next t => t | _ => s

/-- An 8-byte store, and a load of the same bytes at its next state. -/
theorem test_witness_LoadAfterStore :
    let s := st .S [(1, 0x100), (2, 0x0102030405060708)]
    let i : Instr := .st 2 1 3 3 0
    let t := after i s
    Canonical s ∧ Granted s 3 .write (BitVec.ofInt 64 ((s.g 1).toInt + (0 : BitVec 9).toInt * (2 ^ (3 : Fin 4).val : Nat))).toNat 8 0x100 0 ∧
    Writable s 0x100 8 ∧ exec i s = .next t ∧
    Granted t 7 .read (BitVec.ofInt 64 ((s.g 1).toInt + (0 : BitVec 9).toInt * (2 ^ (3 : Fin 4).val : Nat))).toNat 8 0x100 0 ∧ Readable t 0x100 8 :=
  ⟨by constructor <;> decide, ⟨by decide, by decide, false, rfl⟩, .inl (by unfold Readable; decide), rfl,
    ⟨by decide, by decide, false, rfl⟩, by unfold Readable; decide⟩

/-- A one-word instruction and a two-word one at the pc of a sequencer whose turn it is. -/
theorem test_witness_StepRunsDecoded :
    let one := { State.reset.withFetchWord 32 0x04642800 with agenda := [.issue 0 .K] }
    let two := { State.reset.withFetchWord 64 (0x0800400000000000 + 0xC1000000) with agenda := [.late 0 .K] }
    let m := { one with agenda := [], cell := 0, role := Role.K }
    let n := { two with agenda := [], cell := 0, role := Role.K }
    State.reset.agenda = [] ∧
    (one.seqAt 0 .K).status = .ready ∧ ({ State.reset with agenda := [.issue 0 .K] }.seqAt 0 .K).status ≠ .ready ∧
    m.translateAll m.fetchAgent .fetch (pieces 2 m.me.pc.toNat 4) = .ok m [⟨0, 4, .mem 0 0 false⟩] ∧ Readable m 0 4 ∧
    isLong (valueAt m 0 4 0) = false ∧ decode (valueAt m 0 4 0) 0 = .instr (.add 3 4 5) ∧
    n.translateAll n.fetchAgent .fetch (pieces 2 n.me.pc.toNat 4) = .ok n [⟨0, 4, .mem 0 0 false⟩] ∧ Readable n 0 4 ∧
    isLong (valueAt n 0 4 0) = true ∧ n.translateAll n.fetchAgent .fetch (pieces 2 4 4) = .ok n [⟨4, 4, .mem 4 0 false⟩] ∧ Readable n 4 4 ∧
    decode (valueAt n 0 4 0) (valueAt n 4 4 0) = .instr (.lda 2 ⟨0, 2, 0, 1⟩) := by
  unfold Readable
  and_intros <;> first | rfl | decide

/-- A word of no instruction at the pc. -/
theorem test_witness_StepRunsDecoded_illegal :
    let s := { State.reset.withFetchWord 32 0 with agenda := [.issue 0 .K] }
    let m := { s with agenda := [], cell := 0, role := Role.K }
    decode (valueAt m 0 4 0) 0 = .illegal 0x01 ∧ CanTrap (st .K []) := ⟨by decide, canTrap_st⟩

/-- A canonical state whose step answers a next state. -/
theorem test_witness_StepKeepsCanonical :
    let s := State.reset.withFetchWord 32 0x04642800
    Canonical s ∧ step s = .next (match step s with | .next t => t | _ => s) :=
  ⟨by constructor <;> decide, rfl⟩

/-- Commands on the ring of queue 5 for context 3: a context at rest, one that is joined, and each rank and descriptor. -/
theorem test_witness_ContextAndPodCommands :
    let job (op w1 : Nat) : State := ring State.reset op 3 w1 0
    let join (s : State) : State := { s with ctxs := s.ctxs.set 3 { s.ctxAt 3 with joined := true, rank := 0, job := 7, live := 3, children := [1] } }
    State.reset.queueOpen 5 = false ∧ nextOk (job 7 0) 7 = true ∧ word_ (job 7 0) 0 = (3 : Fin 64).val ∧ (job 7 0).col.runs = [] ∧
    ((job 7 0).ctxAt 3).sealJobs = [] ∧ (job 7 0).erg.tasks = [] ∧ ((job 7 0).ctxAt 3).joined = false ∧ ((join (job 7 0)).ctxAt 3).joined = true ∧
    nextOk (join (job 7 0)) 7 = true ∧ nextOk (job 8 0) 8 = true ∧ (∀ op ∈ [7, 8, 12, 13, 14], nextOk (ring State.reset op 64 0 0) op = true) ∧
    63 < word_ (ring State.reset 8 64 0 0) 0 ∧ ((State.reset.queueAt 5).busy = .none) := by
  and_intros <;> first | decide | exact ⟨_, rfl, by decide⟩

/-- Leaving and removing in a context that is joined, which holds nothing. -/
theorem test_witness_ContextAndPodCommands_leave :
    let job (op w1 w2 : Nat) : State := ring State.reset op 3 w1 w2
    let join (s : State) : State := { s with ctxs := s.ctxs.set 3 { s.ctxAt 3 with joined := true, rank := 0, job := 7, live := 3, children := [1] } }
    let tree (v : Nat) : State := put (join (job 13 1 0x3000)) (hostKey 0x3000) 64 (v + 2 ^ 79)
    nextOk (join (job 14 0 0)) 14 = true ∧ nextOk (job 14 0 0) 14 = true ∧ ((join (job 14 0 0)).ctxAt 3).applied = ((join (job 14 0 0)).ctxAt 3).step ∧
    nextOk (join (job 13 1 0)) 13 = true ∧ word_ (join (job 13 1 0)) 1 = 1 ∧ word_ (join (job 13 1 0)) 2 = 0 ∧
    ((join (job 13 1 0)).ctxAt 3).live.getLsbD 1 = true ∧ word_ (join (job 13 0 0)) 1 = ((join (job 13 0 0)).ctxAt 3).rank ∧
    nextOk (tree 7) 13 = true ∧ natAt ((tree 7).readHost 0x3000 64) 0 4 = ((tree 7).ctxAt 3).job ∧
    natAt ((tree 7).readHost 0x3000 64) 4 4 % 2 ^ 12 = ((tree 7).ctxAt 3).rank ∧ natAt ((tree 7).readHost 0x3000 64) 4 4 / 2 ^ 16 % 4 = ((tree 7).ctxAt 3).lead ∧
    natAt ((tree 8).readHost 0x3000 64) 0 4 ≠ ((tree 8).ctxAt 3).job := by
  and_intros <;> first | decide | exact ⟨_, rfl, by decide⟩

/-- A join descriptor of two members with this device as root, one with job 0, and a context that is joined already. -/
theorem test_witness_ContextAndPodCommands_join :
    let desc (job : Nat) : State :=
      put (ring State.reset 12 3 0x3000 0) (hostKey 0x3000) 80 (job + 2 ^ 79 + 1 * 2 ^ 96 + 1 * 2 ^ 128 + 3 * 2 ^ 512)
    let s := desc 7
    let d := s.readHost (word_ s 1) 576
    nextOk s 12 = true ∧ natAt d 0 4 = 7 ∧ natAt d 4 4 = 0 ∧ natAt d 8 4 = 2 ^ 15 ∧ natAt d 12 4 = 1 ∧ natAt d 0x30 16 = 0 ∧ natAt d 16 2 = 1 ∧
    (∀ i < 16, natAt d (16 + 2 * i) 2 / 2 ^ 12 = 0 ∧ (1 ≤ i → natAt d (16 + 2 * i) 2 = 0)) ∧ natAt d 0x40 512 = 3 ∧
    s.erg.tasks = [] ∧ (∀ d i, s.col.entries[(d : Fin 2)][(i : Fin 16)] = none) ∧ (∀ o, (s.ctxAt o).joined = false) ∧
    nextOk (desc 0) 12 = true ∧ natAt ((desc 0).readHost 0x3000 576) 0 4 = 0 := by
  and_intros <;> first | decide | exact ⟨_, rfl, by decide⟩

/-- The task of cell 0 can be pre-empted with slot 0, by CTXOUT and by PREEMPT, and aborted; without slots it cannot be saved. -/
theorem test_witness_ContextAndPodCommands_tasks :
    let s := st .K []
    let n := State.reset.erg.nextStamp
    let x := loadedTask n
    let slots (s : State) : State := onCtx s fun y => { y with slots := 1 }
    let pre (op w : Nat) : State := ring s op w 0 0
    let waiting : State := { pre 11 n with erg := { s.erg with tasks := [{ x with state := .ready, kind := .copy, cell := none, cflag := 0xFFFFFF0000000010 }] } }
    nextOk (slots (pre 7 0)) 7 = true ∧ (slots (pre 7 0)).col.runs = [] ∧ ((slots (pre 7 0)).ctxAt 0).sealJobs = [] ∧
    (pre 7 0).erg.tasks = [{ x with body := (s.taskOf n).elim 0 (·.body) }] ∧
    CanSave x 0 (slots (pre 9 n)) ∧ (∀ j, ¬ CanSave x j (pre 9 n)) ∧ nextOk (pre 9 n) 9 = true ∧ (pre 9 n).taskOf n = some x ∧
    nextOk (pre 9 (n + 1)) 9 = true ∧ (pre 9 (n + 1)).taskOf (n + 1) = none ∧ nextOk (pre 11 n) 11 = true ∧ (pre 11 (n + 1)).taskOf (n + 1) = none ∧
    x.ctx = ((pre 11 n).queueAt 5).ctx ∧ x.state = .running ∧ x.cell = some 0 ∧ ¬ IsBarrierWord waiting 0 0xFFFFFF0000000010 ∧
    (let b := s.setQueue 5 { s.queueAt 5 with busy := .ctxout 3 false }; (b.queueAt 5).busy = .ctxout 3 false ∧ b.col.runs = []) ∧ (∀ m ∈ (pre 11 n).cmds, m.stamp ≠ n) ∧ nextOk waiting 11 = true ∧
    (∃ y, waiting.taskOf n = some y ∧ y.state = .ready ∧ y.req = none ∧ y.ctx = (waiting.queueAt 5).ctx) ∧ Canonical waiting ∧
    (∀ z ∈ waiting.erg.tasks, n ∉ z.preds) ∧ Gone (n + 1) s ∧ ¬ Gone n s := by
  and_intros <;> first | decide | (constructor <;> decide) | exact ⟨_, rfl, by and_intros <;> decide⟩ | exact fun j h => absurd h.slot.1 (Nat.not_lt_zero j) | exact fun h => absurd h.1 (by decide)

/-- A member of job 7 with rank 0, peer 1 behind link 2, and page tables that map its low addresses to themselves. -/
def member : State :=
  let s := linked (pod (st .K []))
  onCtx (put (put s 0x10000 8 0x20001) 0x20000 8 openLeaf.toNat) fun x => { x with root := 0x10001, wins := [win 3 1] }

/-- The walk of the first granule that this agent outside the cells waited on has reached its leaf. -/
def walkedFor (w : Agent) (s : State) : State :=
  { s with mem := { s.mem with walks := [⟨1, w.ctx, 0, [(w.cell, w.reader)], none, some (.leaf (tlbEntry w.ctx 0 3 openLeaf.toNat))⟩] } }

def stored (src : Nat) (a : Nat) : InRec := ⟨0, src, ⟨5, 0, 1, 9, .store [(a, 7), (a + 1, 8)], false⟩, .none⟩

/-- Packets of job 7 that this device has not seen, and one that it has. -/
theorem test_witness_StepUnit :
    let s := member
    let p := packet .request 1 0 (.sealUp 5 [])
    let d := { s with fab := { s.fab with seen := [(7 * 4096 + 1, 3)] } }
    let j : SealJob := ⟨5, true, []⟩
    let one := onCtx s fun x => { x with sealJobs := [j] }
    let r : BoundRec := ⟨4, [⟨1, 8, 0, none⟩, ⟨2, 8, 0, some ⟨0, 0, 0⟩⟩], false, some 0⟩
    let rec_ := onCtx s fun x => { x with records := [r] }
    let late := { rec_ with clk := { rec_.clk with fs := 25000000000 } }
    let open_ := onCtx s fun x => { x with records := [{ r with appliedAt := none }] }
    s.ctxOfJob p.job = some 0 ∧ (p.job * 4096 + p.src, p.seqNo) ∉ s.fab.seen ∧ (p.job * 4096 + p.src, p.seqNo) ∈ d.fab.seen ∧
    p.src ≠ (s.ctxAt 0).rank ∧ (packet .request 0 0 (.record (stored 0 8).wr)).src = (s.ctxAt 0).rank ∧ s.ctxOfJob (packet .request 0 0 (.record (stored 0 8).wr)).job = some 0 ∧ (s.ctxAt 0).sealJobs = [] ∧ (one.ctxAt 0).sealJobs = [j] ∧ (one.ctxAt 0).children = [1] ∧ (one.ctxAt 0).childSeals = [] ∧
    (one.ctxAt 0).isRoot = true ∧ (rec_.ctxAt 0).records = [r] ∧ ComesBefore 4 (s.ctxAt 0).step ∧ rec_.clk.fs - 0 < 25000000000 ∧
    25000000000 ≤ late.clk.fs - 0 ∧ (late.ctxAt 0).records = [r] ∧ (∀ d ∈ r.dests, d.rank ≠ 1 → d.result ≠ none) ∧
    (∃ d ∈ r.dests, d.rank = 1 ∧ d.result = none) ∧ (open_.ctxAt 0).records = [{ r with appliedAt := none }] := by
  unfold ComesBefore
  and_intros <;> decide

/-- A seal that can leave, and one behind a record that has not arrived. -/
theorem test_witness_StepUnit_seal :
    let j : SealJob := ⟨5, false, []⟩
    let s := onCtx member fun x => { x with sealJobs := [j] }
    let k : OutRec := ⟨0, 1, ⟨5, 0, 1, 9, .store [(0x1000, 7)], false⟩, false, true, true, false, .none⟩
    let noisy := { s with fab := { s.fab with outRecs := [k] } }
    let gone : State := { onCtx s fun x => { x with live := 1 } with fab := { s.fab with outRecs := [k, { k with arrived := true }], unacked := [(2, packet .request 0 1 (.record k.wr))] } }
    let held := onCtx s fun x => { x with childSeals := [⟨1, 5, []⟩] }
    (s.ctxAt 0).sealJobs = [j] ∧ j.sent = false ∧ s.cmds = [] ∧ s.fab.reads = [] ∧ s.fab.outRecs = [] ∧ (noisy.ctxAt 0).sealJobs = [j] ∧
    k.arrived = false ∧ (noisy.ctxAt 0).live.getLsbD k.dst = true ∧ k.dst ≠ (noisy.ctxAt 0).rank ∧ noisy.liveHops k.dst ≠ [] ∧
    (gone.ctxAt 0).sealJobs = [j] ∧ (gone.ctxAt 0).live.getLsbD k.dst = false ∧ (gone.ctxAt 0).isLost [k] (packet .request 0 1 (.record k.wr)) = true ∧
    (∃ c ∈ (s.ctxAt 0).children, (s.ctxAt 0).live.getLsbD c = true ∧ ∀ k ∈ (s.ctxAt 0).childSeals, ¬ (k.rank = c ∧ k.step = j.step)) ∧
    (∀ c ∈ (held.ctxAt 0).children, (held.ctxAt 0).live.getLsbD c = true → ∃ k ∈ (held.ctxAt 0).childSeals, k.rank = c ∧ k.step = j.step) ∧
    (held.ctxAt 0).isRoot = true ∧ ((onCtx held fun x => { x with isRoot := false }).ctxAt 0).isRoot = false ∧
    (∀ k ∈ (member.ctxAt 0).sealJobs, k.sent = true) := by
  and_intros <;> first | decide | rfl | (constructor <;> decide)

/-- A boundary that is released, without a record, with one outside its windows, with one of a rank that a window shuts out, and with one
that is applied. -/
theorem test_witness_StepUnit_apply :
    let s := walkedFor (member.hereAgent 0 (applyWork 0)) (onCtx member fun x => { x with released := [5] })
    let got (r : InRec) : State := { s with fab := { s.fab with inRecs := [r] } }
    let x := s.ctxAt 0
    let ws := x.winsOf x.rank x.applied
    let here (s : State) : List InRec := s.fab.inRecs.filter (fun k => k.ctx == 0 && k.wr.step == (s.ctxAt 0).applied)
    let t := got (stored 1 0x1008)
    let gs : List Seg := [⟨0x1008, 1, .mem 0x1008 0 false⟩, ⟨0x1009, 1, .mem 0x1009 0 false⟩]
    x.applied ∈ x.released ∧ x.joined = true ∧ s.fab.serveWaits = [] ∧ here s = [] ∧ (member.ctxAt 0).applied ∉ (member.ctxAt 0).released ∧
    here (got (stored 1 0x3000)) = [stored 1 0x3000] ∧ (∀ d ∈ ws, ¬ (d.base ≤ 0x3000 ∧ 0x3000 < d.base + d.size)) ∧
    here t = [stored 1 0x1008] ∧ (∃ d ∈ ws, d.base ≤ 0x1008 ∧ 0x1009 < d.base + d.size ∧ d.lo ≤ 1 ∧ 1 ≤ d.hi) ∧
    here (got (stored 2 0x1008)) = [stored 2 0x1008] ∧ x.live.getLsbD 2 = false ∧ (stored 1 0x1008).wr.host = false ∧ (stored 1 0x1008).err = .none ∧
    placedBytes true gs = none ∧ here (got (stored 4096 0x1008)) = [stored 4096 0x1008] ∧ (∃ d ∈ ws, d.base ≤ 0x1008 ∧ 0x1008 < d.base + d.size ∧ ¬ (d.lo ≤ 4096 ∧ 4096 ≤ d.hi)) ∧
    t.translateAll (t.hereAgent 0 (applyWork 0)) .write [(0x1008, 1), (0x1009, 1)] = .ok t gs ∧
    placedBytes false gs = some [(0x1008, 0x1008, 0), (0x1009, 0x1009, 0)] ∧ t.badWrite gs = none ∧ Canonical t ∧
    t.isMine ⟨.response, x.rank, 1, x.job, 0, 0, s.clk.nextId, .report x.applied ⟨0, 0, 0⟩⟩ = false ∧ t.liveHops 1 ≠ [] := by
  and_intros <;> first | decide | rfl | (constructor <;> decide)

/-- Reads of a peer: of an unknown job, of a step to come, of local memory, of bytes that cannot be read, of memory that is not mapped,
of memory whose leaf another walk must bring; each with its plan. -/
theorem test_witness_PeersAndFabric :
    let ask (va : Nat) (t : BitVec 32) : Packet := packet .request 1 0 (.readReq 5 va 8 t false)
    let ask' : Packet := { ask 0x100 4 with job := 8 }
    let w := member.hereAgent 0 (packetWork (ask 0x100 4))
    let s := walkedFor w member
    let g : Seg := ⟨0x100, 8, .mem 0x100 0 false⟩
    let away := { s with mem := { s.mem with walks := [⟨1, 0, 0, [(w.cell, w.reader)], none, some (.fault ⟨0x04, 0x01, 0, none⟩)⟩] } }
    let bad := { s with mem := { s.mem with bad := [0x100 / 8] } }
    s.ctxOfJob ask'.job = none ∧ s.ctxOfJob (ask 0x100 4).job = some 0 ∧ ComesBefore (s.ctxAt 0).applied 6 ∧ ¬ ComesBefore (s.ctxAt 0).applied 5 ∧
    s.translateAll w .read (pieces (8 / 65536 + 2) 0x100 8) = .ok s [g] ∧ s.badRead g = none ∧ 0x100 < 2 ^ 41 ∧ ¬ 2 ^ 56 ≤ 0x100 ∧
    bad.translateAll w .read (pieces (8 / 65536 + 2) 0x100 8) = .ok bad [g] ∧ (∃ f, bad.badRead g = some f ∧ f.code = (0x0D : BitVec 8)) ∧
    (∃ f, away.translateAll w .read (pieces (8 / 65536 + 2) 0x100 8) = .fault f ∧ f.code = (0x04 : BitVec 8)) ∧
    (∃ v, member.translateAll w .read (pieces (8 / 65536 + 2) 0x100 8) = .pend v) := by
  unfold ComesBefore
  and_intros <;> first | decide | rfl | exact ⟨_, rfl, by decide⟩ | exact ⟨_, rfl⟩

/-- A read on its way, early and late, links up and down, and packets that can go on and cannot. -/
theorem test_witness_PeersAndFabric_links :
    let s := member
    let r : PeerRead := ⟨5, 1, 0, 1, 0x100, 32, false, 5, false, 0, none⟩
    let u := { s with fab := { s.fab with reads := [r] } }
    let v := { u with clk := { u.clk with fs := 25000000000 } }
    let p := packet .request 1 1 (.absence 1 true)
    let held := { s with fab := { s.fab with unacked := [((3 : Fin 36).val, p)] } }
    s.fab.reads = [] ∧ u.fab.reads.find? (·.id == 5) = some r ∧ u.clk.fs - r.since < 25000000000 ∧ v.fab.reads.find? (·.id == 5) = some r ∧
    25000000000 ≤ v.clk.fs - r.since ∧ 5 ≤ ({ p with hops := 5 }).hops ∧ p.hops < 5 ∧ s.liveHops p.dst ≠ [] ∧ s.liveHops 9 = [] ∧
    held.fab.unacked = [((3 : Fin 36).val, p)] ∧ held.fab.linkUp[(3 : Fin 36)] = false ∧ held.liveHops p.dst ≠ [] ∧
    s.fab.linkUp[(2 : Fin 36)] = true := by
  and_intros <;> decide

/-- A pod barrier at its home, and a sequencer that waits for the home's answer. -/
theorem test_witness_PeersAndFabric_barrier :
    let s0 := linked (pod (barred 0x000000C3))
    let w : Wait := .home 5 0xFFFFFF0000000010 1 true true 3 1000
    let u := linked (pod (waits w))
    let p := packet .request 1 0 (.barArrive 5 0xFFFFFF0000000010 1 false)
    (p.job * 4096 + p.src, p.seqNo) ∉ s0.fab.seen ∧ s0.ctxOfJob p.job = some 0 ∧ Canonical s0 ∧
    s0.isObj 0 0xFFFFFF0000000010 = true ∧ (s0.flagAt 0 0xFFFFFF0000000010).toNat % 2 ^ 16 = 4 ∧
    (s0.flagAt 0 0xFFFFFF0000000010).toNat / 2 ^ 16 = 2 ∧ (s0.flagAt 0 0xFFFFFF0000000014).toNat / 2 ^ 6 % 4 = 3 ∧
    (u.seqAt 0 .K).status = .waiting w ∧ (u.seqAt 0 .K).hnd = false ∧ (u.seqAt 0 .K).tvec ≠ 0 ∧ (u.seqAt 0 .K).held = 0 ∧
    (∀ c q, (u.seqAt c q).status = .waiting w → c = 0 ∧ q = .K) := by
  and_intros <;> first | decide | (constructor <;> decide) | exact fun c q => by cases q <;> revert c <;> decide
/-- A run of entry 3 of die 0 in context 0: between rank 0, this device, and rank 1, with three buffers. -/
def run (prog : List Word) : Run :=
  ⟨11, 0, .entry 3, 0, 0, coll 7, 2, 5, prog, [0, 1], 0, 0, 0, [], [], none, [], [], none, 0, 0⟩

/-- A step of that kind and operation, with the given low bits. -/
def stepWord (kind op low : Nat) : Word := BitVec.ofNat 64 (kind * 2 ^ 60 + op * 2 ^ 57 + low)

def running (r : Run) : State :=
  let s := onCtx member fun x => { x with vbase := 0, vlimit := 16 }
  { s with col := { s.col with runs := [r] } }

theorem collRead_of {s : State} {r : Run} {va n : Nat} {gs : List Seg} (a : apertureByte va n = none) (f : s.footFault (s.runAgent r) .read none va n = none)
    (l : s.sourceLocal (s.runAgent r) (pieces (n / 65536 + 2) va n) = .ok s ()) (p : s.planAccess (s.runAgent r) .read none va n = .ok s gs) :
    s.collRead r va n = s.readSegs (s.runAgent r) gs := by
  simp [State.collRead, a, f, l, p, XR.bind]

/-- The source of that SEND can be read. -/
theorem run_reads : ∃ bs, (running (run [stepWord 1 0 1])).collRead (run [stepWord 1 0 1]) 0x200 16 = .ok (running (run [stepWord 1 0 1])) bs := by
  rw [collRead_of (gs := [⟨0x200, 16, .mem (2 ^ 40 + 0x200) 0 false⟩]) rfl rfl rfl rfl]
  exact ⟨_, rfl⟩

/-- Steps of each kind at which a run stands, and what they ask of their state. -/
theorem test_witness_CollectiveSteps :
    let send := run [stepWord 1 0 1]
    let s := running send
    State.reset.runOf 11 = none ∧ StandsAt s send (stepWord 1 0 1) 1 ∧ (∃ bs, s.collRead send 0x200 16 = .ok s bs) ∧ s.liveHops 1 ≠ [] ∧
    s.col.credits = [] ∧ s.col.runs = [send] ∧ send.sends = [] ∧ s.liveHops 2 = [] ∧
    s.portSegs 0 0x400 16 = .ok s [⟨0x400, 16, .mem (2 ^ 40 + 0x400) 0 false⟩] ∧ Canonical s ∧ (∀ i < 16, s.isBad (2 ^ 40 + 0x400 + i) = false) := by
  and_intros <;> first | decide | rfl | exact run_reads | (constructor <;> decide)

theorem test_witness_CollectiveSteps_recv :
    let on (w : Word) : Prop := StandsAt (running (run [w])) (run [w]) w (w.toNat / 2 ^ 60)
    let recv := run [stepWord 2 7 1]
    let s := running recv
    let x : CollRecvRec := ⟨1, 0, 7, 0x200, 0x200, 16, [0, 1], [], none⟩
    let full := { x with got := [0, 1, 2, 3] }
    on (stepWord 2 7 1) ∧ s.collDest recv 0x200 16 = .ok s () ∧ (s.ctxAt 0).badDest (2 ^ 31) 16 = some (2 ^ 31) ∧ on (stepWord 3 0 1) ∧
    x.got.length < x.len / 4 ∧ full.len / 4 ≤ full.got.length ∧ on (stepWord 4 7 (2 ^ 51 + 1)) := by
  and_intros <;> first | decide | rfl | exact run_reads | (constructor <;> decide)

/-- The steps that touch no buffer: a WAIT that its flag meets and one that it does not, a SIGNAL, LOOPs of no pass and of some, and an END. -/
theorem test_witness_CollectiveSteps_flags :
    let on (w : Word) : Prop := StandsAt (running (run [w])) (run [w]) w (w.toNat / 2 ^ 60)
    let y : CollSendRec := ⟨1, 0, 0x200, 16, some [], true, false⟩
    let ae : ArmedEntry := ⟨0, coll 7, 0, 2, false, false⟩
    on (stepWord 5 0 (9 * 2 ^ 32)) ∧ cond32 (Machine.condOf 0) ((running (run [])).flagAt 0 (0xFFFFFF0000000000 + 4 * 9)) 0 = true ∧
    cond32 (Machine.condOf 0) ((running (run [])).flagAt 0 (0xFFFFFF0000000000 + 4 * 9)) 1 = false ∧ on (stepWord 6 1 (9 * 2 ^ 32 + 2)) ∧
    ¬ IsBarrierWord (running (run [])) 0 (0xFFFFFF0000000000 + 4 * 9) ∧ (∀ z ∈ (run []).sends, z.acked = true) ∧
    ¬ (∀ z ∈ ({ run [] with sends := [y] }).sends, z.acked = true) ∧ on (stepWord 7 0 (2 ^ 52)) ∧ on (stepWord 7 0 (2 ^ 52 + 3)) ∧ on (stepWord 8 0 0) ∧
    collDone (coll 7) = 5 ∧ ¬ IsBarrierWord (running (run [])) 0 (deviceFlagAddr (collDone (coll 7))) ∧
    (((running (run [])).setEntry 0 3 (some ae)).col.entries[(0 : Fin 2)][(3 : Fin 16)] = some ae) := by
  unfold IsBarrierWord
  and_intros <;> decide

/-- A team of two at 0x2040 and a program of one END at 0x2000, in the vault window; the run that the entry starts. -/
def armedDesc : AgImage := coll 7 &&& ~~~(BitVec.ofNat 512 (2 ^ 128 - 1)) ||| BitVec.ofNat 512 (0x2000 + 0x2040 * 2 ^ 64)

def armedSt : State :=
  let s := put (put (running (run [])) (2 ^ 40 + 0x2000) 8 (8 * 2 ^ 60)) (2 ^ 40 + 0x2040) 4 0x10000
  { s with col := { s.col with runs := [] }, clk := { s.clk with nextId := 20 } }

def armedRun (team : List Nat) : Run := ⟨19, 0, .entry 3, 0, 0, armedDesc, 0, 5, [], team, 0, 0, 0, [], [], none, [], [], none, 0, 0⟩

/-- A trigger that has not advanced and one that has; a program of one END, one that does not start with a step, teams that fit and do not. -/
theorem test_witness_CollectiveTraffic :
    let s := armedSt
    let ae (t0 : BitVec 32) : ArmedEntry := ⟨0, armedDesc, t0, 0, false, false⟩
    let armed (t0 : BitVec 32) : State := s.setEntry 0 3 (some (ae t0))
    let trig (t0 : BitVec 32) : Nat := ((armed t0).flagAt 0 (0xFFFFFF0000000000 + 4 * collTrig armedDesc) - t0 - 0 - 1).toNat
    (armed 0).col.entries[(0 : Fin 2)][(3 : Fin 16)] = some (ae 0) ∧ s.col.entries[(0 : Fin 2)][(3 : Fin 16)] = none ∧
    (∀ z ∈ (armed 0).col.runs, ¬ (z.die = 0 ∧ z.src = .entry 3)) ∧ 2 ^ 31 ≤ trig 0 ∧ trig 0xFFFFFFFF < 2 ^ 31 ∧ ((armed 0).ctxAt 0).absent = false ∧
    ((armed 0).ctxAt 0).switchedOut = false ∧ progValid [BitVec.ofNat 64 (8 * 2 ^ 60)] = true ∧ progValid [0] = false ∧
    (s.ctxAt 0).teamValid armedDesc [0, 1] = true ∧ (s.ctxAt 0).teamValid armedDesc [1, 0] = false := by
  and_intros <;> decide

/-- The team and the program of that entry are read by the run that starts. -/
theorem test_witness_CollectiveTraffic_start :
    let begun := { armedSt with col := { armedSt.col with runs := [armedRun []] } }
    let read := begun.setRun (armedRun [0, 1])
    (∃ bs, begun.collRead (armedRun []) (collTeam armedDesc) (2 * collSize armedDesc) = .ok begun bs ∧
      (List.range (collSize armedDesc)).map (fun i => natAt bs (2 * i) 2) = [0, 1]) ∧
    read.readProg (armedRun [0, 1]) 64 0 = .ok read [BitVec.ofNat 64 (8 * 2 ^ 60)] := by
  refine ⟨?_, ?_⟩
  · rw [collRead_of (gs := [⟨0x2040, 4, .mem (2 ^ 40 + 0x2040) 0 false⟩]) rfl rfl rfl rfl]
    exact ⟨_, rfl, by decide⟩
  · unfold State.readProg
    rw [collRead_of (gs := [⟨0x2000, 8, .mem (2 ^ 40 + 0x2000) 0 false⟩]) rfl rfl rfl rfl]
    rfl

/-- Packets for a run that receives and for one that sends, and packets that nothing waits for. -/
theorem test_witness_CollectiveTraffic_packets :
    let x : CollRecvRec := ⟨1, 0, 7, 0x200, 0x200, 16, [], [], none⟩
    let y : CollSendRec := ⟨1, 0, 0x200, 16, some (List.replicate 16 3), false, false⟩
    let r := { run [stepWord 2 7 1] with recv := some x }
    let w := { run [stepWord 1 0 1] with sends := [y] }
    let s := running r
    let p := packet .request 1 0 (.collData (collTag (coll 7)) 0 16 0 (List.replicate 16 3))
    let late := { running { r with elapsed := 1024 } with fab := { s.fab with seen := [(7 * 4096 + 1, 3)] } }
    let cut := { s with fab := { s.fab with linkUp := Vector.replicate 36 false } }
    s.collCtx p = some 0 ∧ s.collCtx { p with job := 9 } = none ∧ ¬ (p.job < 2 ^ 32 ∧ (p.job * 4096 + p.src, p.seqNo) ∈ s.fab.seen) ∧
    (p.job < 2 ^ 32 ∧ (p.job * 4096 + p.src, p.seqNo) ∈ late.fab.seen) ∧ s.col.runs = [r] ∧ r.recv = some x ∧ r.ctx = 0 ∧ x.src = p.src ∧
    s.portSegs 0 0x200 16 = .ok s [⟨0x200, 16, .mem (2 ^ 40 + 0x200) 0 false⟩] ∧ (∀ i < 16, s.isBad (2 ^ 40 + 0x200 + i) = false) ∧ Canonical s ∧
    collRdy (coll 7) = 0 ∧ s.liveHops p.src ≠ [] ∧ (running w).col.runs = [w] ∧ w.sends = [y] ∧ y.sent = false ∧ (running w).runOf 11 = some w ∧
    collTmo (coll 7) = 1 ∧ ({ r with elapsed := 1023 }).elapsed < collTmo (coll 7) * 1024 ∧ collTmo (coll 7) * 1024 ≤ ({ r with elapsed := 1024 }).elapsed ∧
    x.len / 4 ≤ (wordsOf 0 16).length ∧ cut.liveHops p.src = [] ∧ p.src ≠ (cut.ctxAt 0).rank ∧ cut.collCtx p = some 0 ∧ p.job < 2 ^ 32 := by
  and_intros <;> first | decide | rfl | exact run_reads | (constructor <;> decide)

/-- The task of cell 0 with its watchdog past its bound, idle and saved, and levels of the ladder before and past their bounds. -/
theorem test_witness_LadderEvents :
    let n := State.reset.erg.nextStamp
    let s0 := st .K []
    let s := onCell (onCtx s0 fun x => { x with twd := 2 }) fun x => { x with watchdog := 2048 }
    let x := loadedTask n
    let early := onCell s fun x => { x with watchdog := 2047 }
    let q : PreemptReq := ⟨0, 0, some 1, none⟩
    let saved := { s with erg := { s.erg with tasks := [{ x with req := some q }] } }
    let at_ (level scope detail : Nat) (fs : Nat) : State :=
      { s with mgmt := { s.mgmt with ladder := [⟨5, level, scope, 1, detail, 1000⟩] }, clk := { s.clk with fs := fs } }
    let held := { s with cmds := [{ cmd 7 .drain (.stv 0 []) .guarded 0 with stamp := n }], erg := { s.erg with tasks := [{ x with state := .ending }] } }
    let zero := onCtx early fun x => { x with twd := 0 }
    (held.taskOf n).map (·.state) = some .ending ∧ (∃ m ∈ held.cmds, m.stamp = n ∧ m.state = .guarded) ∧ max 1 ((zero.ctxAt 0).twd.toNat * 1024) ≤ zero.myCell.watchdog ∧
    s.taskOf (n + 1) = none ∧ s.taskOf x.stamp = some x ∧ x.cell = some 0 ∧ x.state = .running ∧ s.myCell.task = some x.stamp ∧ s.myCell.progress = false ∧
    (s.ctxAt 0).absent = false ∧ (s.ctxAt 0).twd.toNat * 1024 ≤ s.myCell.watchdog ∧ early.myCell.watchdog < (early.ctxAt 0).twd.toNat * 1024 ∧
    (∀ q, x.req = some q → q.saving = none) ∧ (saved.taskOf n).map (·.req) = some (some q) ∧ q.saving = some 1 ∧ (∀ m ∈ s.cmds, m.state ≠ .guarded) ∧
    s.mgmt.ladder = [] ∧ (at_ 1 0 n 2000).mgmt.ladder = [⟨5, 1, 0, 1, n, 1000⟩] ∧ ((at_ 1 0 n 2000).cellAt 0).task = some n ∧
    ((at_ 2 0 9 2000).cellAt 0).task ≠ some 9 ∧ (1000 : Nat) < (at_ 2 0 n 2000).clk.fs ∧ (at_ 2 0 n 1000).clk.fs ≤ 1000 ∧
    (∃ d : Fin 256, d.val / 16 = (0 : Fin 16).val ∧ ((at_ 3 0 0 2000).cellAt d).task ≠ none) ∧
    (∀ d : Fin 256, d.val / 16 = (1 : Fin 16).val → ((at_ 3 1 0 2000).cellAt d).task = none) := by
  and_intros <;> first | decide | exact fun j h => absurd h.slot.1 (Nat.not_lt_zero j) | exact fun q h => (by cases h) | exact ⟨0, by decide⟩ | (constructor <;> decide)

/-- Heartbeats that come and that are missing. -/
theorem test_witness_LadderEvents_heartbeats :
    let s := State.reset
    let late := { s with clk := { s.clk with fs := 10000000000000 } }
    let again := { late with mgmt := { late.mgmt with fw := { late.mgmt.fw with restarting := true } } }
    (∀ n : Fin 16, s.clk.fs - s.mgmt.fw.cairnBeat[n] < 1000000000000 ∧ 1000000000000 ≤ late.clk.fs - late.mgmt.fw.cairnBeat[n]) ∧
    s.clk.fs - s.mgmt.fw.siroccoBeat < 10000000000000 ∧ 10000000000000 ≤ late.clk.fs - late.mgmt.fw.siroccoBeat ∧ late.mgmt.ladder = [] ∧
    late.mgmt.fw.restarting = false ∧ late.mgmt.fw.handover = none ∧ again.mgmt.fw.restarting = true := by
  and_intros <;> first | decide | exact fun j h => absurd h.slot.1 (Nat.not_lt_zero j) | exact fun q h => (by cases h) | exact ⟨0, by decide⟩ | (constructor <;> decide)

/-- A task that can be pre-empted, one whose sequencers have stopped, before its save and in it, early and late; and memory with errors. -/
theorem test_witness_IntegrityAndPreemption :
    let n := State.reset.erg.nextStamp
    let s := onCtx (st .K []) fun y => { y with slots := 1 }
    let x := loadedTask n
    let asked (saving : Option Nat) (fs base : Nat) : State :=
      let u := onCtx s fun y => { y with usedSlots := [0], savebase := BitVec.ofNat 64 base }
      let v := onCell u fun c => { c with stopReq := true, seqs := Vector.replicate 4 { u.me with status := .stopped } }
      { v with erg := { v.erg with tasks := [{ x with req := some ⟨0, 0, saving, none⟩ }] }, clk := { v.clk with fs := fs } }
    let u := asked none 50000000000 0x100000
    let stood := { u with cells := u.cells.set 0 { u.cellAt 0 with seqs := (u.cellAt 0).seqs.set 1 { u.me with paused := some (.pause 3) } } }
    let posted := { s with erg := { s.erg with tasks := [{ x with state := .posted, cell := none, cflag := 0 }] } }
    (stood.seqAt 0 .L).status = .stopped ∧ (stood.seqAt 0 .L).paused = some (.pause 3) ∧ (∀ q ∈ [Role.K, .L, .C, .S], (stood.seqAt 0 q).paused = none ∨ (stood.seqAt 0 q).paused = some (.pause 3)) ∧
    (posted.taskOf n).map (·.state) = some .posted ∧ (∀ z ∈ posted.erg.tasks, n ∉ z.preds) ∧
    CanSave x 0 s ∧ (∀ j, ¬ CanSave x j (st .K [])) ∧ s.taskOf n = some x ∧ s.taskOf (n + 1) = none ∧ x.cell = some 0 ∧ x.req = none ∧
    (u.taskOf n).map (·.req) = some (some ⟨0, 0, none, none⟩) ∧ (∀ q : Fin 4, (u.cellAt 0).seqs[q].status = .stopped) ∧
    (∀ q : Fin 4, (u.cellAt 0).seqs[q].pending = []) ∧ u.cmds = [] ∧ u.mem.pend = [] ∧
    0x100000 + 0x210000 ≤ 2 ^ 39 ∧ Canonical u ∧ 2 ^ 39 < 2 ^ 39 - 65536 + 0x210000 ∧ 50000000000 ≤ u.clk.fs - 0 ∧ (asked none 9 0).clk.fs - 0 < 50000000000 ∧
    ((asked (some 1) 200000000002 0).taskOf n).map (·.req) = some (some ⟨0, 0, some 1, none⟩) ∧ 200000000000 < (asked (some 1) 200000000002 0).clk.fs - 1 ∧
    (asked (some 1) 9 0).clk.fs - 1 ≤ 200000000000 := by
  and_intros <;> first | decide | exact fun j h => absurd h.slot.1 (Nat.not_lt_zero j) | exact fun q h => (by cases h) | exact ⟨0, by decide⟩ | (constructor <;> decide)

theorem test_witness_IntegrityAndPreemption_memory :
    let s := st .K []
    let b := { s with mem := { s.mem with bad := [0x20], soft := [0x30] } }
    let m := cmd 7 .drain (.stv 0 []) .started 0
    s.cmdOf 7 = none ∧ ({ s with cmds := [m] }).cmdOf 7 = some m ∧ 0x20 * 8 < 2 ^ 41 ∧ 2 ^ 41 ≤ 2 ^ 38 * 8 ∧ b.isBad (0x20 * 8) = true ∧ (ueOf (0x20 * 8)).isSome = true ∧
    b.isBad (0x30 * 8) = false ∧ 0x30 ∈ b.mem.soft ∧ 0x31 ∉ b.mem.soft ∧ b.isBad (0x31 * 8) = false ∧ (∀ i : Fin 45, b.mem.ecc[i].toNat / 2 ^ 32 < 2 ^ 32 - 1) ∧
    (∀ j ∈ s.mgmt.ladder, ¬ (j.level = 3 ∧ j.scope = (0 : Fin 16).val)) := by
  and_intros <;> first | decide | exact fun j h => absurd h.slot.1 (Nat.not_lt_zero j) | exact fun q h => (by cases h) | exact ⟨0, by decide⟩ | (constructor <;> decide)

/-- A queue that is enabled and one that is not, in firmware that serves and that does not, with values at the ends of each range. -/
theorem test_witness_HostRegisters :
    let s := ring State.reset 10 0 0 0
    let behind := s.setQueue 5 { s.queueAt 5 with completed := 0 }
    let link := { s with mgmt := { s.mgmt with fw := { s.mgmt.fw with links := s.mgmt.fw.links.set 0 ⟨[7, 8], [9], 0, 3, false, false, false, false⟩ } } }
    let joined := onCtx s fun x => { x with joined := true }
    let running := State.reset.setQueue 5 { State.reset.queueAt 5 with busy := .preempt 9 }
    (running.queueAt 5).busy = .preempt 9 ∧ (running.queueAt 5).en = false ∧ (s.setQueue 5 { s.queueAt 5 with busy := .preempt 9 }).queueOpen 5 = false ∧
    (s.queueAt 5).en = true ∧ (State.reset.queueAt 5).en = false ∧ (s.queueAt 5).busy = .none ∧ (s.queueAt 5).trigs = [] ∧
    ((1 : BitVec 32) - (s.queueAt 5).consumed).toNat < 2 ^ 31 ∧ 2 ^ 31 ≤ ((0xFFFFFFFF : BitVec 32) - (s.queueAt 5).consumed).toNat ∧
    2 ^ 31 ≤ ((behind.queueAt 5).completed - (behind.queueAt 5).doorbell).toNat ∧
    ((State.reset.queueAt 5).completed - (State.reset.queueAt 5).doorbell).toNat < 2 ^ 31 ∧ 1200 % 50 = 0 ∧ ¬ (1199 % 50 = 0) ∧
    link.mgmt.fw.links[(0 : Fin 16)].toCairn = [7, 8] ∧ link.mgmt.fw.links[(0 : Fin 16)].toSirocco = [9] ∧ link.mgmt.fw.links[(0 : Fin 16)].permitS = 0 ∧
    s.mgmt.fw.links[(0 : Fin 16)].toCairn = [] ∧ (joined.ctxAt 0).joined = true ∧ (s.ctxAt 0).joined = false ∧ (∀ t ∈ s.erg.tasks, t.ctx ≠ 0) ∧
    (∃ t ∈ (st .K []).erg.tasks, t.ctx = 0) := by
  and_intros <;> first | decide | exact fun j h => absurd h.slot.1 (Nat.not_lt_zero j) | exact fun q h => (by cases h) | exact ⟨0, by decide⟩ | (constructor <;> decide)

/-- Firmware with nothing staged, with an image staged and verified, and in a hand-over, early and late. -/
theorem test_witness_FirmwareAndAttestation :
    let s := State.reset
    let put_ (f : Firmware → Firmware) (fs : Nat) : State := { s with mgmt := { s.mgmt with fw := f s.mgmt.fw }, clk := { s.clk with fs := fs } }
    let g : Staged := ⟨1, [1, 2], true⟩
    let staged := put_ (fun f => { f with staged := some g }) 0
    let handing := put_ (fun f => { f with handover := some (0, g) })
    let done := put_ (fun f => { f with handover := some (0, g), replaced := 16 }) 9
    done.mgmt.fw.replaced = 16 ∧ (handing 9).mgmt.fw.replaced ≠ 16 ∧ done.mgmt.fw.handover = some (0, g) ∧ g.image.length ≤ 32 * 2 ^ 20 ∧ Canonical s ∧
    s.mgmt.fw.staged = none ∧ s.mgmt.fw.handover = none ∧ staged.mgmt.fw.staged = some g ∧ g.verified = true ∧ staged.serving = true ∧ g.component ≠ 3 ∧
    ({ g with component := 3 }).component = 3 ∧ ({ g with verified := false }).verified = false ∧ (handing 9).mgmt.fw.handover = some (0, g) ∧
    (handing 9).clk.fs - 0 < 10000000000000 ∧ 10000000000000 ≤ (handing 10000000000000).clk.fs - 0 := by
  and_intros <;> first | decide | exact fun j h => absurd h.slot.1 (Nat.not_lt_zero j) | exact fun q h => (by cases h) | exact ⟨0, by decide⟩ | (constructor <;> decide)

/-! ### Single steps, with results computed by hand from the spec -/

/-- R331: sums wrap at 2^64, and a source may be the destination. -/
theorem test_add_wraps : ((after (.add 2 1 2) (st .K [(1, 0xFFFFFFFFFFFFFFFF), (2, 2)])).g 2) = 1 := by decide

/-- R354: the quotient of −7 by 2 is −3, and the remainder −1. -/
theorem test_div_signed :
    ((after (.div 3 1 2 false) (st .K [(1, 0xFFFFFFFFFFFFFFF9), (2, 2)])).g 3) = 0xFFFFFFFFFFFFFFFD ∧
    ((after (.rem 3 1 2 false) (st .K [(1, 0xFFFFFFFFFFFFFFF9), (2, 2)])).g 3) = 0xFFFFFFFFFFFFFFFF := by decide

/-- R331: CLZ counts 64 for 0, POPC counts ones. -/
theorem test_clz_popc :
    ((after (.clz 3 0) (st .K [])).g 3) = 64 ∧ ((after (.popc 3 1) (st .K [(1, 0xF000000000000001)])).g 3) = 5 := by decide

/-- R361: EXT with sign takes 16 bits from bit 8, and INS puts them back. -/
theorem test_ext_ins :
    ((after (.ext 3 4 true 8 15) (st .K [(4, 0x0000000000800100)])).g 3) = 0xFFFFFFFFFFFF8001 ∧
    ((after (.ins 3 4 8 15) (st .K [(3, 0xFFFFFFFFFFFFFFFF), (4, 0x1234)])).g 3) = 0xFFFFFFFFFF1234FF := by decide

/-- R380, R412: a store is little-endian and a load of half of it is sign-extended. -/
theorem test_store_load :
    let s := after (.st 2 1 3 2 0) (st .S [(1, 0x100), (2, 0x8765432180FF0102)])
    ((after (.ld 3 1 3 .i16 1) s).g 3) = 0xFFFFFFFFFFFF80FF ∧ ((after (.ld 3 1 3 .n8 0) s).g 3) = 2 := by decide

/-- R328: an atomic answers the old value. -/
theorem test_amo_add :
    let s := st .K [(1, 0x8000), (2, 7)]
    let t := after (.amo 3 1 2 2 0 .add) (after (.amo 3 1 2 2 0 .add) s)
    (t.g 3) = 7 ∧ ((after (.amo 4 1 2 2 0 .add) t).g 4) = 14 := by decide

/-- R374: JAL writes the address of the next word to g31 and jumps by words. -/
theorem test_jal :
    let t := after (.jal 0x3FFFFFF) (onSeq (st .K []) fun y => { y with pc := 0x100 })
    (t.g 31) = 0x104 ∧ t.me.pc = 0xFC := by decide

/-- R181, R395, the example: (2, 2.0, 1.5, 0.5) merged with itself, and its fields. -/
theorem test_mmrg_example :
    let m0 : BitVec 128 := 0x3F0000003FC000004000000000000002
    let t := after (.mmrg ⟨0, 0, 0, 0⟩) (onCell (st .C []) fun x => { x with m := x.m.set 0 m0 })
    t.myCell.m[0] = 0x3F8000003FC000004080000000000004#128 ∧ ((after (.mget ⟨1, 0, 0, 5⟩) t).g 1) = 0x3F8000003FC00000 := by decide
end Sys2Proof.Tests
end

section
/-! PROOFS. TAKE and GIVE: what a change of the acting cell's token counts leaves, and the statement about the two instructions
(R27, R28, R30, R32, R187). -/

namespace Sys2Proof.Machine

open Host (Outcome)

/-! ### Frames -/

theorem canonical_of_setMyCell {s : State} {x : Cell} (h : Canonical (s.setMyCell x)) : Canonical s :=
  ⟨h.bytes, h.keyTags, h.flags, h.acc, h.keys⟩

/-- Stores that a sequencer performs do not depend on what its cell holds. -/
theorem MineAndStores.setMyCell {s t : State} (h : MineAndStores s t) (x : Cell) : MineAndStores (s.setMyCell x) (t.setMyCell x) := by
  have hc : t.cell = s.cell := by rw [h.rest]
  have hr : t.role = s.role := by rw [h.rest]
  refine ⟨?_, fun c e => ?_, ?_, fun q _ => ?_,
    h.mem ∘ canonical_of_setMyCell, h.lines ∘ canonical_of_setMyCell, h.pend, h.others⟩
  · unfold State.setMyCell State.setCell
    rw [h.rest]
  · exact (State.cellAt_setCell_ne t x (by rw [hc]; exact e)).trans ((h.cells c e).trans (State.cellAt_setCell_ne s x e).symm)
  · rw [State.myCell_setMyCell, State.myCell_setMyCell]
  · show (t.setCell t.cell x).seqAt s.cell q = (s.setCell s.cell x).seqAt s.cell q
    rw [hc]
    simp only [State.seqAt, State.cellAt_setCell]

/-- Going on looks at nothing of the state but the acting sequencer and a request to stop its cell. -/
theorem WentOn.of_me {s u t : State} {len : Nat} (h : WentOn u t len) (hm : u.me = s.me) (hs : u.myCell.stopReq = s.myCell.stopReq) :
    WentOn s t len := by
  obtain ⟨own, next, status⟩ := h
  rw [hm] at own next
  exact ⟨own, next, fun e => status (hs.trans e)⟩

/-- A take that waits: the sequencer leaves the ready set, and the agenda has its turn at the end of the cycle (R31). -/
theorem leftReady_park_tokens (s : State) (mask : BitVec 3) : LeftReady (.tokens mask) s (s.park (.tokens mask)) where
  own := s.me_setMe _
  frame := onlyMine_setMe { s with agenda := (s.park (.tokens mask)).agenda } _

/-! ### The token counts of the acting cell -/

/-- The acting cell's token counts replaced. -/
def State.withTokens (s : State) (v : Vector Nat 12) : State := s.setMyCell { s.myCell with tokens := v }

theorem State.withTokens_tokens (s : State) : s.withTokens s.myCell.tokens = s := s.setMyCell_myCell

theorem State.tokensOn_withTokens (s : State) (v : Vector Nat 12) (a b : Role) : (s.withTokens v).tokensOn a b = v[tokenQueue a b] := by
  unfold State.tokensOn State.withTokens
  rw [State.myCell_setMyCell]

theorem State.reservedOn_withTokens (s : State) (v : Vector Nat 12) (a b : Role) :
    (s.withTokens v).reservedOn a b = s.reservedOn a b := by
  unfold State.reservedOn State.withTokens
  rw [State.myCell_setMyCell]

theorem State.me_withTokens (s : State) (v : Vector Nat 12) : (s.withTokens v).me = s.me := by
  show (s.withTokens v).myCell.seqOf s.role = _
  unfold State.withTokens
  rw [State.myCell_setMyCell]
  rfl

theorem State.stopReq_withTokens (s : State) (v : Vector Nat 12) : (s.withTokens v).myCell.stopReq = s.myCell.stopReq := by
  unfold State.withTokens
  rw [State.myCell_setMyCell]

theorem OnlyMine.tokensOn {s t : State} (h : OnlyMine s t) (a b : Role) : t.tokensOn a b = s.tokensOn a b := by
  unfold State.tokensOn
  rw [h.cell]

theorem OnlyMine.reservedOn {s t : State} (h : OnlyMine s t) (a b : Role) : t.reservedOn a b = s.reservedOn a b := by
  unfold State.reservedOn
  rw [h.cell]

theorem memOnly_performMine (s : State) : MemOnly s s.performMine := memOnly_performAll s _

theorem MemOnly.myCell {s u : State} (h : MemOnly s u) : u.myCell = s.myCell := by rw [h]; rfl

theorem MemOnly.me {s u : State} (h : MemOnly s u) : u.me = s.me := by rw [h]; rfl

/-! ### Going on with other token counts, after operations on memory alone -/

section
variable {s u : State} (h : MemOnly s u) (v : Vector Nat 12) (len : Nat)
include h

/-- The token counts are all that the acting cell's own change adds. -/
theorem withTokensOf_advance : withTokensOf ((u.withTokens v).advance len) s = s.withTokens v := by
  unfold withTokensOf
  rw [(onlyMine_advance (u.withTokens v) len).cell]
  unfold State.withTokens
  rw [State.myCell_setMyCell, h.myCell]

theorem wentOn_withTokens : WentOn s ((u.withTokens v).advance len) len :=
  (wentOn_advance (u.withTokens v) len).of_me ((u.me_withTokens v).trans h.me) (by rw [State.stopReq_withTokens, h.myCell])

theorem regsSame_withTokens : RegsSame s ((u.withTokens v).advance len) := fun r => by
  rw [State.g_advance]
  unfold State.g
  rw [State.me_withTokens, h.me]

theorem reservedOn_withTokens_advance (a b : Role) : ((u.withTokens v).advance len).reservedOn a b = s.reservedOn a b := by
  rw [(onlyMine_advance _ len).reservedOn, State.reservedOn_withTokens]
  unfold State.reservedOn
  rw [h.myCell]

theorem mineAndStores_withTokens (m : MineAndStores s u) : MineAndStores (s.withTokens v) ((u.withTokens v).advance len) := by
  refine mineAndStores_then ?_ (onlyMine_advance _ len)
  unfold State.withTokens
  rw [h.myCell]
  exact m.setMyCell _

end

theorem tokensOn_withTokens_advance (u : State) (v : Vector Nat 12) (len : Nat) (a b : Role) :
    ((u.withTokens v).advance len).tokensOn a b = v[tokenQueue a b] := by
  rw [(onlyMine_advance _ len).tokensOn, State.tokensOn_withTokens]

/-! ### Takes and gives on a queue -/

theorem not_maskNames_zero (q r : Role) : ¬ MaskNames q 0 r := by
  rintro ⟨i, -, h⟩
  simp at h

theorem giveQueues_zero (q : Role) : giveQueues q 0 = [] := by cases q <;> rfl

theorem takeQueues_get (s : State) (mask : BitVec 3) {a b : Role} (h : a ≠ b) :
    let v := bumpCounts s.myCell.tokens (takeQueues s.role mask) 0 1
    (b = s.role ∧ MaskNames s.role mask a → v[tokenQueue a b] = s.tokensOn a b - 1) ∧
    (¬ (b = s.role ∧ MaskNames s.role mask a) → v[tokenQueue a b] = s.tokensOn a b) := by
  simp only
  rw [bumpCounts_get _ _ _ _ _ (takeQueues_nodup ..), ← mem_takeQueues s.role a b mask h]
  exact ⟨fun e => if_pos e, fun e => if_neg e⟩

theorem giveQueues_get (s : State) (mask : BitVec 3) {a b : Role} (h : a ≠ b) :
    let v := bumpCounts s.myCell.tokens (giveQueues s.role mask) 1 0
    (a = s.role ∧ MaskNames s.role mask b → v[tokenQueue a b] = s.tokensOn a b + 1) ∧
    (¬ (a = s.role ∧ MaskNames s.role mask b) → v[tokenQueue a b] = s.tokensOn a b) := by
  simp only
  rw [bumpCounts_get _ _ _ _ _ (giveQueues_nodup ..), ← mem_giveQueues s.role a b mask h]
  exact ⟨fun e => if_pos e, fun e => if_neg e⟩

/-! ### TAKE -/

/-- A sequencer that holds nothing takes what its mask names where every queue of it has a token. -/
theorem withTakes_ready {s : State} {mask : BitVec 3} (hh : s.me.held = 0) (h : ∀ r, MaskNames s.role mask r → 1 ≤ s.tokensOn r s.role)
    (f : State → IRes) : withTakes mask s f = f (s.withTokens (bumpCounts s.myCell.tokens (takeQueues s.role mask) 0 1)) := by
  unfold withTakes
  split
  · next e =>
    rw [← e, hh, takeQueues_zero]
    exact congrArg f s.withTokens_tokens.symm
  · rw [if_pos ((canTake_iff ..).2 h)]
    rfl

/-- A sequencer that holds nothing waits while a queue of its mask is empty. -/
theorem withTakes_waits {s : State} {mask : BitVec 3} (hh : s.me.held = 0) (h : ∃ r, MaskNames s.role mask r ∧ s.tokensOn r s.role = 0)
    (f : State → IRes) : withTakes mask s f = .wait s (.tokens mask) := by
  obtain ⟨r, hr, hz⟩ := h
  have named : s.me.held ≠ mask := by
    rintro e
    rw [← e, hh] at hr
    exact not_maskNames_zero _ _ hr
  have empty : ¬ s.myCell.canTake s.role mask = true := fun c => by
    have one : 1 ≤ s.tokensOn r s.role := (canTake_iff ..).1 c r hr
    omega
  unfold withTakes
  rw [if_neg named, if_neg empty]

theorem execTake_eq {s : State} (hp : s.me.pending = []) (mask : BitVec 3) :
    execTake mask s = finish 4 s (withTakes mask s fun s1 => .done s1) :=
  runInstr_body (allRoles_contains s.role) (firstFault_of_nil hp .any)

/-! ### GIVE -/

theorem giveChecked_of_room {s : State} {mask : BitVec 3}
    (h : ∀ r, MaskNames s.role mask r → s.tokensOn s.role r + s.reservedOn s.role r < 255) (k : IRes) : giveChecked mask s k = k := by
  have room : ¬ s.myCell.overflows s.role mask = true := fun o => by
    obtain ⟨r, hr, full⟩ := (overflows_iff ..).1 o
    have free : s.tokensOn s.role r + s.reservedOn s.role r < 255 := h r hr
    unfold State.tokensOn State.reservedOn at free
    omega
  unfold giveChecked
  rw [if_pos (by simp [room])]

/-- A give that would overflow traps where no sequencer of its cell is still to issue in the cycle (R31). -/
theorem giveChecked_of_full {s : State} {mask : BitVec 3}
    (h : ∃ r, MaskNames s.role mask r ∧ 255 ≤ s.tokensOn s.role r + s.reservedOn s.role r)
    (last : ∀ q, Turn.issue s.cell q ∉ s.agenda) (k : IRes) : giveChecked mask s k = .trap (trapOf cTOKEN 0 s.freeEval) := by
  have full : s.myCell.overflows s.role mask = true := (overflows_iff ..).2 h
  have unissued : ¬ s.agenda.any (Turn.isIssueOf s.cell) = true := by
    rw [List.any_eq_true]
    rintro ⟨t, ht, e⟩
    cases t with
    | issue d q =>
      obtain rfl : d = s.cell := by simpa [Turn.isIssueOf] using e
      exact last q ht
    | late | event | outside => simp [Turn.isIssueOf] at e
  unfold giveChecked
  rw [full, if_neg unissued]
  rfl

/-- The state in which GIVE makes its gives: with the sequencer's earlier stores performed, but for a mask of 0 (R187). -/
def State.released (s : State) (mask : BitVec 3) : State := if mask = 0 then s else s.performMine

theorem memOnly_released (s : State) (mask : BitVec 3) : MemOnly s (s.released mask) := by
  unfold State.released
  split
  · exact memOnly_refl s
  · exact memOnly_performMine s

theorem mineAndStores_released (s : State) (mask : BitVec 3) : MineAndStores s (s.released mask) := by
  unfold State.released
  split
  · exact mineAndStores_refl s
  · exact mineAndStores_performMine s

theorem allPerformed_released {s : State} {mask : BitVec 3} (h : mask ≠ 0) : AllPerformed s (s.released mask) := by
  unfold State.released
  rw [if_neg h]
  exact allPerformed_performMine s

/-- GIVE with room in every queue of its mask. -/
theorem execGive_of_room {s : State} {mask : BitVec 3}
    (h : ∀ r, MaskNames s.role mask r → s.tokensOn s.role r + s.reservedOn s.role r < 255) :
    execGive mask s = .next (((s.released mask).withTokens (bumpCounts s.myCell.tokens (giveQueues s.role mask) 1 0)).advance 4) := by
  unfold execGive
  rw [plainInstr_eq, giveChecked_of_room h]
  unfold State.released
  split
  · next e =>
    rw [e, giveQueues_zero]
    exact congrArg (fun u : State => Outcome.next (u.advance 4)) s.withTokens_tokens.symm
  · have hr : s.performMine.role = s.role := by rw [memOnly_performMine s]
    rw [← (memOnly_performMine s).myCell, ← hr]
    rfl

/-- GIVE with a full queue in its mask, judged last in its cycle. -/
theorem execGive_of_full {s : State} {mask : BitVec 3} (trap : CanTrap s)
    (full : ∃ r, MaskNames s.role mask r ∧ 255 ≤ s.tokensOn s.role r + s.reservedOn s.role r)
    (last : ∀ q, Turn.issue s.cell q ∉ s.agenda) : Traps (.give mask) s cTOKEN 0 s.freeEval := by
  unfold Traps Completes
  rw [exec_give]
  unfold execGive
  exact plainInstr_trap trap (giveChecked_of_full full last _)

/-- Settles O15: the four clauses are TAKE with its tokens there and with one missing, and GIVE with room and without. -/
theorem tokenMoves : Obligations.TokenMoves := by
  unfold Obligations.TokenMoves
  intro s mask
  refine ⟨fun hp hh ready => ?_, fun hp hh missing => ?_, fun room => ?_, fun trap full last => ?_⟩
  · have m := memOnly_refl s
    refine ⟨_, by rw [exec_take, execTake_eq hp, withTakes_ready hh ready]; rfl,
      regsSame_withTokens m _ 4, wentOn_withTokens m _ 4, ?_, fun a b ne => ?_⟩
    · rw [withTokensOf_advance m]
      exact onlyMine_advance _ 4
    · obtain ⟨taken, kept⟩ := takeQueues_get s mask ne
      rw [tokensOn_withTokens_advance]
      exact ⟨taken, kept, reservedOn_withTokens_advance m _ 4 a b⟩
  · exact ⟨_, by rw [exec_take, execTake_eq hp, withTakes_waits hh missing]; rfl, leftReady_park_tokens s mask⟩
  · have m := memOnly_released s mask
    refine ⟨_, by rw [exec_give, execGive_of_room room], regsSame_withTokens m _ 4, wentOn_withTokens m _ 4, ?_,
      allPerformed_released, fun a b ne => ?_⟩
    · rw [withTokensOf_advance m]
      exact mineAndStores_withTokens m _ 4 (mineAndStores_released s mask)
    · obtain ⟨given, kept⟩ := giveQueues_get s mask ne
      rw [tokensOn_withTokens_advance]
      exact ⟨given, kept, reservedOn_withTokens_advance m _ 4 a b⟩
  · exact ⟨s.freeEval, execGive_of_full trap full last⟩

end Sys2Proof.Machine
end

section
/-! PROOFS. Jumps and LOOP: where a relative transfer goes, what a pushed level leaves at the check of its first address, and the two
statements about these instructions (R336, R374, R387 to R389). -/

namespace Sys2Proof.Machine

/-! ### B, JAL and JR -/

/-- The target of a relative transfer, as a sum of integers (R336). -/
theorem State.relTarget_eq {n : Nat} (s : State) (off : BitVec n) :
    s.relTarget off = BitVec.ofInt 64 (s.me.pc.toInt + 4 * off.toInt) := by
  unfold State.relTarget
  rw [BitVec.ofInt_add, BitVec.ofInt_toInt, BitVec.ofInt_mul, BitVec.shiftLeft_eq_mul_twoPow, BitVec.mul_comm]
  rfl

theorem execB_jumps (off : BitVec 26) (s : State) : ∃ t, execB off s = .next t ∧ Jumped 0 0 (s.relTarget off) s t :=
  plainInstr_jump rfl

theorem execJal_jumps (off : BitVec 26) (s : State) :
    ∃ t, execJal off s = .next t ∧ Jumped 31 (s.me.pc + 4) (s.relTarget off) s t :=
  plainInstr_jump rfl

theorem execJr_of_aligned {s : State} {a : Reg} (d : Reg) (h : (s.g a).toNat % 4 = 0) :
    ∃ t, execJr d a s = .next t ∧ Jumped d (s.me.pc + 4) (s.g a) s t :=
  plainInstr_jump (if_neg (by simp [h]))

theorem execJr_of_misaligned {s : State} {a : Reg} (d : Reg) (trap : CanTrap s) (h : (s.g a).toNat % 4 ≠ 0) :
    ∃ t, execJr d a s = .next t ∧ TookTrap cMISALIGNED 0 0 (s.g a) s.me.pc s t :=
  plainInstr_trap trap (if_pos (by simp [h]))

/-- Settles O5: B and JAL always transfer, and JR does so or traps by the alignment of gA. -/
theorem jumpResults : Obligations.JumpResults := by
  unfold Obligations.JumpResults Traps Completes
  intro s d a off
  simp only
  rw [← s.relTarget_eq off]
  exact ⟨execB_jumps off s, execJal_jumps off s, execJr_of_aligned d, fun misaligned trap => execJr_of_misaligned d trap misaligned⟩

/-! ### A pushed level -/

theorem loopCheck_of_inside {l : LoopLevel} {next : Word} (ls : List LoopLevel) (h : next.toNat < l.stop.toNat) :
    loopCheck (l :: ls) next = (l :: ls, next) := if_neg (Nat.not_le.2 h)

/-- Before the end of the innermost level the loop-end check changes nothing, in a handler or out of it. -/
theorem Seq.goOn_of_inside {q : Seq} {l : LoopLevel} {ls : List LoopLevel} {next : Word} (e : q.loops = l :: ls)
    (h : next.toNat < l.stop.toNat) : q.goOn next = { q with pc := next } := by
  unfold Seq.goOn
  rw [e, loopCheck_of_inside ls h, ← e]
  exact ite_self _

/-- The acting sequencer's loop stack with one more level, the innermost. -/
def State.pushLevel (s : State) (l : LoopLevel) : State := s.setMe { s.me with loops := l :: s.me.loops }

@[simp] theorem State.me_pushLevel (s : State) (l : LoopLevel) : (s.pushLevel l).me = { s.me with loops := l :: s.me.loops } := s.me_setMe _

theorem onlyMine_pushLevel (s : State) (l : LoopLevel) : OnlyMine s (s.pushLevel l) := onlyMine_setMe s _

theorem regsSame_pushLevel (s : State) (l : LoopLevel) : RegsSame s (s.pushLevel l) := fun r => by
  unfold State.g
  rw [State.me_pushLevel]

/-- Going on into the body of a level that has been pushed: the check of R389 finds the level not over. -/
theorem State.me_pushLevel_advance {s : State} {l : LoopLevel} {len : Nat} (h : (s.me.pc + word len).toNat < l.stop.toNat) :
    ((s.pushLevel l).advance len).me =
      ({ s.me with pc := s.me.pc + word len, loops := l :: s.me.loops } : Seq).settle s.myCell.stopReq false := by
  rw [State.me_advance, State.me_pushLevel, Seq.goOn_of_inside rfl h, (onlyMine_pushLevel s l).cell, bne_self_eq_false]

/-! ### LOOP -/

/-- The loop stack takes a level that ends at `stop`: it holds less than 8, and the innermost does not end before (R388). -/
def State.LoopFits (s : State) (stop : Word) : Prop :=
  s.me.loops.length < 8 ∧ ∀ l ∈ s.me.loops.head?, stop.toNat ≤ l.stop.toNat

/-- The END of the level that LOOP pushes for a body of `len` words (R388). -/
def State.bodyEnd (s : State) (len : BitVec 16) : Word := s.me.pc + 4 + BitVec.ofNat 64 (4 * len.toNat)

theorem State.shiftLeft_eq_bodyEnd (s : State) (len : BitVec 16) : s.me.pc + 4 + len.zeroExtend 64 <<< (2 : Nat) = s.bodyEnd len := by
  unfold State.bodyEnd
  rw [BitVec.shiftLeft_eq_mul_twoPow, BitVec.mul_comm, BitVec.ofNat_mul, BitVec.ofNat_toNat]
  rfl

theorem State.head_ends_before_iff (s : State) (stop : Word) :
    s.me.loops.head?.any (fun l => decide (l.stop.toNat < stop.toNat)) = true ↔ ¬ ∀ l ∈ s.me.loops.head?, stop.toNat ≤ l.stop.toNat := by
  cases s.me.loops.head? <;> simp

section
variable {s : State} {len : BitVec 16} (a : Reg)

/-- LOOP where its level fits: it skips its body on a count of 0 and pushes its level on any other. -/
theorem execLoop_of_fits (h : s.LoopFits (s.bodyEnd len)) :
    execLoop a len s = if s.g a = 0 then .next (s.advance (4 + 4 * len.toNat))
      else .next ((s.pushLevel ⟨s.me.pc + 4, s.bodyEnd len, s.g a⟩).advance 4) := by
  obtain ⟨room, inside⟩ := h
  unfold execLoop
  simp only [plainInstr_eq, State.shiftLeft_eq_bodyEnd]
  rw [if_neg (Nat.not_le.2 room), if_neg fun before => (s.head_ends_before_iff _).1 before inside]
  split <;> rfl

theorem execLoop_of_not_fits (trap : CanTrap s) (h : ¬ s.LoopFits (s.bodyEnd len)) :
    ∃ t, execLoop a len s = .next t ∧ TookTrap cILLEGAL 0x05 0 0 s.me.pc s t := by
  refine plainInstr_trap trap ?_
  simp only [State.shiftLeft_eq_bodyEnd]
  split
  · rfl
  · next room =>
    exact if_pos ((s.head_ends_before_iff _).2 fun inside => h ⟨Nat.not_le.1 room, inside⟩)

end

/-- Settles O6: the level fits with a count, fits with a count of 0, or does not fit. -/
theorem loopResults : Obligations.LoopResults := by
  unfold Obligations.LoopResults Traps Completes
  intro s a len
  refine ⟨fun fits count body => ?_, fun fits zero => ?_, fun fits trap => execLoop_of_not_fits a trap fits⟩
  · have me := State.me_pushLevel_advance (l := ⟨s.me.pc + 4, s.bodyEnd len, s.g a⟩) (len := 4) body
    refine ⟨_, by rw [exec_loop, execLoop_of_fits a fits, if_neg count], ?_, ?_, fun r => ?_, ?_, ?_⟩
    · rw [me]; rfl
    · rw [me]; rfl
    · rw [State.g_advance, regsSame_pushLevel s _ r]
    · exact onlyMine_trans (onlyMine_pushLevel s _) (onlyMine_advance _ 4)
    · rw [me]; rfl
  · exact ⟨_, by rw [exec_loop, execLoop_of_fits a fits, if_pos zero], passed_advance s _⟩

end Sys2Proof.Machine
end
